-- ==== Sys2Proof/Word.lean ====
section
/-! DEFINITION. The three port widths of the block (spec/10_state.md R12). -/

namespace Sys2Proof

/-- A value of the input port `op` (R12, R27). -/
abbrev OpSelect := BitVec 2

/-- A value of the input port `src` or of the output port `result` (R12). -/
abbrev PortWord := BitVec 64

/-- One byte of a written-down operation select (used only by the decoder of table words). -/
abbrev Byte := BitVec 8

end Sys2Proof
end

