-- ==== Sys2Proof/Config.lean ====
section
/-! DEFINITION. What selects one case of the datapath (the two container widths) and the one thing an
implementation of the block may choose (the register stages around it, spec/70_reset_and_hazards.md R93).
Every numeric parameter of the formats is fixed by the spec (R5) and stands in Machine/Params.lean. -/

namespace Sys2Proof

/-- The two container widths of both formats: SW for a source, DW for a destination (R30, R31, R34, R35). -/
inductive Width where
  | w32
  | w64
  deriving DecidableEq, Repr

/-- The container width in bits. -/
def Width.bits : Width → Nat
  | .w32 => 32
  | .w64 => 64

/-- The register stages a registered implementation places before and after the block (R93). The spec's open
parameter `PIPE_LATENCY` is their total. The block of the spec itself has none. -/
structure PipeConfig where
  before : Nat
  after : Nat
  deriving DecidableEq, Repr

/-- `PIPE_LATENCY` (R93). -/
def PipeConfig.latency (c : PipeConfig) : Nat := c.before + c.after

end Sys2Proof
end

