-- ==== Sys2Proof/Machine/Params.lean ====
section
/-! DEFINITION. The fixed parameters of the formats and of the datapath (spec/00_scope.md, table of implementation
parameters; R5: none of them is left to an implementation). -/

namespace Sys2Proof.Machine

/-- WF: the IBM fraction width, the container less one sign bit and seven exponent bits (R30, R31, R58). -/
def fractionWidth (w : Width) : Nat := w.bits - 8

/-- D: the hex digits of the IBM fraction (R30, R31). -/
def hexDigitCount : Width → Nat
  | .w32 => 6
  | .w64 => 14

/-- SIG: the stored significand width of the IEEE format (R34, R35). -/
def significandWidth : Width → Nat
  | .w32 => 23
  | .w64 => 52

/-- The exponent field width of the IEEE format (R34, R35). -/
def exponentWidth : Width → Nat
  | .w32 => 8
  | .w64 => 11

/-- B: the exponent bias of the IEEE format (R34, R35). -/
def ieeeBias : Width → Int
  | .w32 => 127
  | .w64 => 1023

/-- K: the rebias constant of the destination (R48). -/
def rebiasConstant : Width → Int
  | .w32 => -131
  | .w64 => 765

/-- maxexp: from this computed exponent on, a 32-bit destination overflows (R56). -/
def overflowExponent : Int := 254

/-- The lowest computed exponent that a 32-bit destination still rounds to a subnormal: -W with W = 32 (R56). -/
def subnormalFloor : Int := -32

/-- The exponent-all-ones, significand-zero pattern of the IEEE format, without its sign (R36, R37). For the 32-bit
format it is 0x7F800000. -/
def infinityPattern (w : Width) : Nat := (2 ^ exponentWidth w - 1) <<< significandWidth w

end Sys2Proof.Machine
end

