-- ==== Sys2Proof/Machine/Operands.lean ====
section
/-! DEFINITION. Bit slices (spec/00_scope.md R6), operand assembly (spec/30_encoding.md R29) and result placement
(R34, R35). -/

namespace Sys2Proof.Machine

/-- `v[hi:lo]`, with the empty slice 0 when `hi < lo` (R6). -/
def slice (v hi lo : Nat) : Nat := (v >>> lo) % 2 ^ (hi + 1 - lo)

/-- The operand of a 32-bit source: `src[31:0]`; `src[63:32]` is ignored (R29). -/
def operand32 (src : PortWord) : BitVec 32 := src.extractLsb' 0 32

/-- The operand of a 64-bit source: `src[63:0]` (R29). -/
def operand64 (src : PortWord) : BitVec 64 := src

/-- A 32-bit result on the port: `result[63:32]` is 0 (R34, R58). -/
def zext64 (r : BitVec 32) : PortWord := r.setWidth 64

end Sys2Proof.Machine
end

