-- ==== Sys2Proof/Machine/Datapath.lean ====
section
/-! DEFINITION. The datapath shared by the four operations (spec/40_datapath.md R42 to R58), over mathematical
integers (spec/00_scope.md R7): field extractor, sign placement, leading-zero count in its fused form, rebias adder,
range dispatch, rounding unit, assembler. The staged forms of the same sub-blocks stand in Machine/Staged.lean. -/

namespace Sys2Proof.Machine

/-- The three fields of an IBM pattern (R30, R31, R42). -/
structure IbmFields where
  sign : Nat
  exponent : Nat
  fraction : Nat
  deriving DecidableEq, Repr

/-- The field extractor (R42). -/
def extract (sw : Width) (p : Nat) : IbmFields where
  sign := slice p (sw.bits - 1) (sw.bits - 1)
  exponent := slice p (sw.bits - 2) (fractionWidth sw)
  fraction := slice p (fractionWidth sw - 1) 0

/-- Sign placement: the sign bit at bit DW - 1 of the destination (R43). -/
def placeSign (dw : Width) (s : Nat) : Nat := s <<< (dw.bits - 1)

/-- The working exponent, four times the exponent field (R44). -/
def workingExponent (exponent : Nat) : Int := 4 * (exponent : Int)

/-- `clz_W(v)`, W less the bit length of `v`, for 0 < v < 2^W (R47). Its value at v = 0 is never read (log
entry 12). -/
def clz (w v : Nat) : Nat := w - (Nat.log2 v + 1)

/-- What the front end hands on: the placed sign, whether the fraction is zero, the normalised significand N and the
computed destination exponent e (R58). -/
structure FrontEnd where
  sgn : Nat
  zero : Bool
  norm : Nat
  e : Int
  deriving DecidableEq, Repr

/-- The front end of R58, with the leading-zero count in its fused form (R47) and the rebias adder of R48. For a zero
fraction N and e are not used (R57). -/
def front (sw dw : Width) (p : Nat) : FrontEnd :=
  let f := extract sw p
  if f.fraction = 0 then { sgn := placeSign dw f.sign, zero := true, norm := 0, e := 0 }
  else
    let l := clz (fractionWidth sw) f.fraction
    { sgn := placeSign dw f.sign, zero := false, norm := f.fraction <<< l,
      e := workingExponent f.exponent - l + rebiasConstant dw }

/-- The five paths of one operation (R56). -/
inductive RangePath where
  | zero
  | normal
  | overflow
  | subnormal
  | underflow
  deriving DecidableEq, Repr

/-- Range dispatch: zero first, then for a 32-bit destination by the value of e; a 64-bit destination always takes
the normal path (R56). -/
def rangeDispatch (dw : Width) (zero : Bool) (e : Int) : RangePath :=
  if zero then .zero
  else
    match dw with
    | .w64 => .normal
    | .w32 =>
      if 0 ≤ e ∧ e < overflowExponent then .normal
      else if overflowExponent ≤ e then .overflow
      else if subnormalFloor ≤ e then .subnormal
      else .underflow

/-- Round-to-nearest-even right shift, bit by bit from the rounding, parity and trailing bits (R51). Used with
n >= 1 only (R54; log entry 12). -/
def rneShr (x n : Nat) : Nat :=
  let r := (x >>> (n - 1)) &&& 1
  let p := (x >>> n) &&& 1
  let t := (decide ((x &&& (2 ^ (n - 1) - 1)) ≠ 0)).toNat
  (x >>> n) + (r &&& (p ||| t))

/-- The assembler on the normal path: integer addition, so that the hidden bit and a rounding carry reach the
exponent field (R55; spec/90_conflicts.md C3). -/
def assembleNormal (dw : Width) (sgn : Nat) (e : Int) (m : Nat) : Nat :=
  (sgn + (e.toNat <<< significandWidth dw) + m) % 2 ^ dw.bits

/-- The assembler on the subnormal path (R55). -/
def assembleSubnormal (dw : Width) (sgn m : Nat) : Nat := (sgn + m) % 2 ^ dw.bits

/-- The signed infinity of an overflow (R59, R62). -/
def assembleInfinity (dw : Width) (sgn : Nat) : Nat := (sgn + infinityPattern dw) % 2 ^ dw.bits

end Sys2Proof.Machine
end

