-- ==== Sys2Proof/Syntax.lean ====
section
/-! DEFINITION. The four operations (spec/30_encoding.md R27), the request that a requester presents on the input
ports (R13), and one line of the trace syntax (R41). -/

namespace Sys2Proof

/-- The operations of spec/opcode_table.json. Each has no field of its own: its one operand is the `src` port and
its one result the `result` port (R28). -/
inductive Instr where
  /-- op 0b00: 32-bit IBM pattern to 32-bit IEEE pattern (R59). -/
  | ibm32ieee32
  /-- op 0b01: 32-bit IBM pattern to 64-bit IEEE pattern (R69). -/
  | ibm32ieee64
  /-- op 0b10: 64-bit IBM pattern to 32-bit IEEE pattern (R62). -/
  | ibm64ieee32
  /-- op 0b11: 64-bit IBM pattern to 64-bit IEEE pattern (R72). -/
  | ibm64ieee64
  deriving DecidableEq, Repr

/-- The source format of an operation (R27). -/
def Instr.sourceWidth : Instr → Width
  | .ibm32ieee32 => .w32
  | .ibm32ieee64 => .w32
  | .ibm64ieee32 => .w64
  | .ibm64ieee64 => .w64

/-- The destination format of an operation (R27). -/
def Instr.destWidth : Instr → Width
  | .ibm32ieee32 => .w32
  | .ibm32ieee64 => .w64
  | .ibm64ieee32 => .w32
  | .ibm64ieee64 => .w64

/-- One presentation of an operation on the input ports: the pair (op, src) of R13. -/
structure Request where
  op : OpSelect
  src : PortWord
  deriving DecidableEq, Repr

/-- One line of the trace syntax (R41): the operation, its IBM pattern as an unsigned integer, and the expected
IEEE pattern of the optional comment. -/
structure TraceLine where
  instr : Instr
  src : Nat
  expected : Option Nat
  deriving DecidableEq, Repr

end Sys2Proof
end

