-- ==== Sys2Proof/WellFormed.lean ====
section
/-! DEFINITION. What must hold of a written term before it has a meaning. An operation needs no check: every value
of `op` is an operation and every value of `src` an operand (spec/30_encoding.md R38). A trace line and the register
stages of an implementation do need one. -/

namespace Sys2Proof

/-- The IBM pattern of a trace line fits the literal of its source width: 8 digits or 16 (R41). -/
def TraceLine.sourceFits (l : TraceLine) : Bool :=
  decide (l.src < 2 ^ l.instr.sourceWidth.bits)

/-- The expected result of a trace line, where there is one, fits the literal of its destination width (R41). -/
def TraceLine.expectedFits (l : TraceLine) : Bool :=
  match l.expected with
  | none => true
  | some r => decide (r < 2 ^ l.instr.destWidth.bits)

/-- A trace line that can be written in the syntax of R41. -/
def TraceLine.wellFormed (l : TraceLine) : Bool :=
  l.sourceFits && l.expectedFits

/-- A registered implementation has at least one register stage: PIPE_LATENCY is a whole number >= 1 (R93). -/
def PipeConfig.wellFormed (c : PipeConfig) : Bool :=
  decide (1 ≤ c.latency)

end Sys2Proof
end

