-- ==== Sys2Proof/Decode.lean ====
section
/-! DEFINITION. The decoder and encoder of the operation select (spec/30_encoding.md R27, R28) and of the trace
syntax (R41). -/

namespace Sys2Proof

/-! ### The operation select -/

/-- The decoder of `op`: the table of R27 and nothing else (R28). Every value is an operation (R38). -/
def decodeOp (op : OpSelect) : Instr :=
  match op.getLsbD 1, op.getLsbD 0 with
  | false, false => .ibm32ieee32
  | false, true => .ibm32ieee64
  | true, false => .ibm64ieee32
  | true, true => .ibm64ieee64

/-- The encoder of `op`, written from the `encoding` column of spec/opcode_table.json. -/
def encodeOp : Instr → OpSelect
  | .ibm32ieee32 => 0b00#2
  | .ibm32ieee64 => 0b01#2
  | .ibm64ieee32 => 0b10#2
  | .ibm64ieee64 => 0b11#2

/-- Why bytes written for an operation select hold no operation. -/
inductive DecodeError where
  /-- No byte at all: no `op` is presented. Safe: nothing runs. -/
  | noOperationSelect
  deriving DecidableEq, Repr

/-- The operation select carried by a byte: bits 1:0, the bits the table's mask 0b11 covers. The `op` port has no
other bit (R12). DESIGN CHOICE (log entry 5). -/
def opOfByte (b : Byte) : OpSelect := BitVec.ofNat 2 b.toNat

/-- The operation that bytes stand for: the first byte carries `op`. Total on any bytes. -/
def decodeBytes : List Byte → Except DecodeError Instr
  | [] => .error .noOperationSelect
  | b :: _ => .ok (decodeOp (opOfByte b))

/-- The byte of a table word: its low `nbits` bits, with zeros above (spec/opcode_table.json numbers bit 0 as the
least significant). The longest operation select fills one byte. -/
def byteOfTableWord (nbits w : Nat) : Byte := BitVec.ofNat 8 (w % 2 ^ nbits)

/-- The value that the table word drives on the `op` port. -/
def opOfTableWord (nbits w : Nat) : OpSelect := opOfByte (byteOfTableWord nbits w)

/-- The instruction that the decoder reads from a word of spec/opcode_table.json. -/
def decodeTableWord (nbits w : Nat) : Option Instr :=
  match decodeBytes [byteOfTableWord nbits w] with
  | .ok i => some i
  | .error _ => none

/-! ### The trace syntax (R41): one operation as one line of characters -/

/-- Why a line is not a trace line. -/
inductive TraceError where
  /-- The words of the line are not `<mnemonic> <src>` with the optional `; -> <result>`. -/
  | badShape
  /-- The first word is no mnemonic of R27. -/
  | unknownMnemonic
  /-- A literal does not start with `0x`. -/
  | badLiteral
  /-- A literal does not have the number of digits of its width. -/
  | wrongDigitCount
  /-- A literal has a character that is no hexadecimal digit. -/
  | badDigit
  deriving DecidableEq, Repr

/-- The mnemonics of R27, letter for letter. -/
def mnemonicChars : Instr → List Char
  | .ibm32ieee32 => ['I', 'B', 'M', '3', '2', 'I', 'E', 'E', 'E', '3', '2']
  | .ibm32ieee64 => ['I', 'B', 'M', '3', '2', 'I', 'E', 'E', 'E', '6', '4']
  | .ibm64ieee32 => ['I', 'B', 'M', '6', '4', 'I', 'E', 'E', 'E', '3', '2']
  | .ibm64ieee64 => ['I', 'B', 'M', '6', '4', 'I', 'E', 'E', 'E', '6', '4']

/-- The code of a character, a lower-case letter counted as its capital ("letters in any case", R41). -/
def upperCode (c : Char) : Nat :=
  if 97 ≤ c.toNat ∧ c.toNat ≤ 122 then c.toNat - 32 else c.toNat

/-- A word of the line is the mnemonic of `i`, its letters in any case. -/
def isMnemonicOf (word : List Char) (i : Instr) : Bool :=
  word.map upperCode == (mnemonicChars i).map upperCode

/-- The operation a word of the line names. -/
def parseMnemonic (word : List Char) : Except TraceError Instr :=
  if isMnemonicOf word .ibm32ieee32 then .ok .ibm32ieee32
  else if isMnemonicOf word .ibm32ieee64 then .ok .ibm32ieee64
  else if isMnemonicOf word .ibm64ieee32 then .ok .ibm64ieee32
  else if isMnemonicOf word .ibm64ieee64 then .ok .ibm64ieee64
  else .error .unknownMnemonic

/-- The value of a hexadecimal digit (R6). Letters in either case: DESIGN CHOICE (log entry 10). -/
def hexDigitValue (c : Char) : Option Nat :=
  if 48 ≤ c.toNat ∧ c.toNat ≤ 57 then some (c.toNat - 48)
  else if 65 ≤ c.toNat ∧ c.toNat ≤ 70 then some (c.toNat - 55)
  else if 97 ≤ c.toNat ∧ c.toNat ≤ 102 then some (c.toNat - 87)
  else none

/-- The character of a hexadecimal digit, capital as the spec writes them (R6). -/
def hexDigitChar (v : Nat) : Char :=
  if v < 10 then Char.ofNat (48 + v) else Char.ofNat (55 + v)

/-- The number that hexadecimal digits denote, most significant first (R6), after the digits already read. -/
def hexValue : List Char → Nat → Except TraceError Nat
  | [], acc => .ok acc
  | c :: cs, acc =>
    match hexDigitValue c with
    | some d => hexValue cs (16 * acc + d)
    | none => .error .badDigit

/-- The `n` hexadecimal digits of `v`, most significant first (R6). -/
def hexDigits : Nat → Nat → List Char
  | 0, _ => []
  | n + 1, v => hexDigits n (v / 16) ++ [hexDigitChar (v % 16)]

/-- A literal `0x...` of exactly the digits of a container width (R6, R41). -/
def parseLiteral (w : Width) : List Char → Except TraceError Nat
  | '0' :: 'x' :: ds => if ds.length = w.bits / 4 then hexValue ds 0 else .error .wrongDigitCount
  | _ => .error .badLiteral

/-- The literal of a value in a container width. -/
def printLiteral (w : Width) (v : Nat) : List Char := '0' :: 'x' :: hexDigits (w.bits / 4) v

/-- The word gathered so far, where there is one. -/
def flushWord (word : List Char) : List (List Char) := if word = [] then [] else [word]

/-- The words of a line: separated by blanks, with `;` always a word of its own (R41). -/
def lineWords : List Char → List Char → List (List Char)
  | [], word => flushWord word
  | c :: cs, word =>
    if c = ' ' then flushWord word ++ lineWords cs []
    else if c = ';' then flushWord word ++ [';'] :: lineWords cs []
    else lineWords cs (word ++ [c])

/-- The trace line that words denote. -/
def parseWords : List (List Char) → Except TraceError TraceLine
  | [m, a] => do
    let i ← parseMnemonic m
    let v ← parseLiteral i.sourceWidth a
    .ok ⟨i, v, none⟩
  | [m, a, [';'], ['-', '>'], r] => do
    let i ← parseMnemonic m
    let v ← parseLiteral i.sourceWidth a
    let x ← parseLiteral i.destWidth r
    .ok ⟨i, v, some x⟩
  | _ => .error .badShape

/-- The trace line that a line of characters denotes (R41). Total, rejecting by name. -/
def parseTraceLine (line : List Char) : Except TraceError TraceLine := parseWords (lineWords line [])

/-- The optional comment of a trace line (R41). -/
def printExpected (l : TraceLine) : List Char :=
  match l.expected with
  | none => []
  | some r => [' ', ';', ' ', '-', '>', ' '] ++ printLiteral l.instr.destWidth r

/-- A trace line as characters (R41). -/
def printTraceLine (l : TraceLine) : List Char :=
  mnemonicChars l.instr ++ ' ' :: printLiteral l.instr.sourceWidth l.src ++ printExpected l

/-- The encoding of a trace line: the pair (op, src), with `src[63:32]` zero for a 32-bit source (R41). -/
def encodeTraceLine (l : TraceLine) : Request :=
  ⟨encodeOp l.instr, BitVec.ofNat 64 (l.src % 2 ^ l.instr.sourceWidth.bits)⟩

end Sys2Proof
end

