-- ==== Sys2Proof/Machine/State.lean ====
section
/-! DEFINITION. The state of the block as a machine: its three ports (spec/10_state.md R12). The block stores
nothing between operations (R10 to R18), so nothing else stands here: no register, flag, mode, memory, program
counter or exception register exists. -/

namespace Sys2Proof.Machine

/-- The ports of the block (R12). `op` and `src` are what the requester drives. `result` is what the block drives:
`none` from the moment the inputs change until the block has formed its output from them, the time in which a sample
has no value (spec/70_reset_and_hazards.md R94; log entry 3). -/
structure State where
  op : OpSelect
  src : PortWord
  result : Option PortWord
  deriving DecidableEq, Repr

/-- The block has no fault of any kind (spec/60_exceptions.md R76): no constructor, so no step can end in a fault. -/
inductive Fault where
  deriving DecidableEq, Repr

/-- Reasons for the model to have no meaning for an operation. -/
inductive Refusal where
  /-- Raised by an arm of `exec` whose instruction has no meaning yet; no arm does. Safe: nothing is claimed. -/
  | notModelled (mnemonic : String)
  deriving DecidableEq, Repr

/-- The block right after power-up, before any requester has acted. There is no reset input and nothing is
initialised (R89, R91); the output is already the conversion of the inputs (R90). The values on the two input ports
are a DESIGN CHOICE (log entry 2); the output is what R90 then gives: the zero path of R57, the pattern 0. -/
def State.reset : State := { op := 0#2, src := 0#64, result := some 0#64 }

end Sys2Proof.Machine
end

