-- ==== Sys2Proof/Machine/Ops.lean ====
section
/-! DEFINITION. The named operations on the ports (spec/10_state.md R12, R13; spec/70_reset_and_hazards.md R94). There
is no operation on registers or memory (R10, R19) and no exception entry or return (spec/60_exceptions.md R82, R83):
the spec gives the block none of them. -/

namespace Sys2Proof.Machine

/-- The port write `result <- v` (R8, R13). -/
def State.drive (s : State) (v : PortWord) : State := { s with result := some v }

/-- A requester presents an operation: it drives `op` and `src`. Until the block has formed its output from them, a
sample of `result` has no value (R94). -/
def State.present (s : State) (r : Request) : State := { s with op := r.op, src := r.src, result := none }

/-- A requester drives a new `op` and leaves `src` as it stands. -/
def State.presentOp (s : State) (op : OpSelect) : State := s.present ⟨op, s.src⟩

/-- A sample of `result`, with no value while the output is not formed (R94; spec/93_implementation_defined.md U2). -/
def State.sample (s : State) : Option PortWord := s.result

/-- The operation the input ports select now: the decoder of `op` (R28). The block fetches nothing else (R11, R26). -/
def selectedInstr (s : State) : Instr := decodeOp s.op

end Sys2Proof.Machine
end

