-- ==== Sys2Proof/Machine/ToIeee32.lean ====
section
/-! DEFINITION. The family of conversions to IEEE 32-bit (spec/41_to_ieee32.md): IBM32IEEE32 (R59) and IBM64IEEE32
(R62), each as its function on patterns and as its meaning on the ports. -/

namespace Sys2Proof.Machine

/-- IBM32IEEE32 on patterns (R59): normal results are exact, subnormal results are rounded by a shift of -e. -/
def convIbm32Ieee32 (p : BitVec 32) : BitVec 32 :=
  let f := front .w32 .w32 p.toNat
  BitVec.ofNat 32 <|
    match rangeDispatch .w32 f.zero f.e with
    | .zero => f.sgn
    | .normal => assembleNormal .w32 f.sgn f.e f.norm
    | .overflow => assembleInfinity .w32 f.sgn
    | .subnormal => assembleSubnormal .w32 f.sgn (rneShr f.norm (-f.e).toNat)
    | .underflow => f.sgn

/-- IBM64IEEE32 on patterns (R62): normal results are rounded by a shift of 32, subnormal results by 32 - e. -/
def convIbm64Ieee32 (p : BitVec 64) : BitVec 32 :=
  let f := front .w64 .w32 p.toNat
  BitVec.ofNat 32 <|
    match rangeDispatch .w32 f.zero f.e with
    | .zero => f.sgn
    | .normal => assembleNormal .w32 f.sgn f.e (rneShr f.norm 32)
    | .overflow => assembleInfinity .w32 f.sgn
    | .subnormal => assembleSubnormal .w32 f.sgn (rneShr f.norm (32 - f.e).toNat)
    | .underflow => f.sgn

/-- The meaning of IBM32IEEE32: it reads `src[31:0]` and drives the result, zero-extended (R29, R34, R59). -/
def execIbm32Ieee32 (s : State) : Host.Outcome State Fault Refusal :=
  .next (s.drive (zext64 (convIbm32Ieee32 (operand32 s.src))))

/-- The meaning of IBM64IEEE32: it reads `src[63:0]` and drives the result, zero-extended (R29, R34, R62). -/
def execIbm64Ieee32 (s : State) : Host.Outcome State Fault Refusal :=
  .next (s.drive (zext64 (convIbm64Ieee32 (operand64 s.src))))

end Sys2Proof.Machine
end

