-- ==== Sys2Proof/Machine/ToIeee64.lean ====
section
/-! DEFINITION. The family of conversions to IEEE 64-bit (spec/42_to_ieee64.md): IBM32IEEE64 (R69) and IBM64IEEE64
(R72), each as its function on patterns and as its meaning on the ports. For a 64-bit destination the dispatch answers
zero or normal only (R56); the other paths are written as the signed zero and are never taken. -/

namespace Sys2Proof.Machine

/-- IBM32IEEE64 on patterns (R69): exact, the significand shifted left by 29. -/
def convIbm32Ieee64 (p : BitVec 32) : BitVec 64 :=
  let f := front .w32 .w64 p.toNat
  BitVec.ofNat 64 <|
    match rangeDispatch .w64 f.zero f.e with
    | .normal => assembleNormal .w64 f.sgn f.e (f.norm <<< 29)
    | .zero | .overflow | .subnormal | .underflow => f.sgn

/-- IBM64IEEE64 on patterns (R72): rounded by a shift of 3. -/
def convIbm64Ieee64 (p : BitVec 64) : BitVec 64 :=
  let f := front .w64 .w64 p.toNat
  BitVec.ofNat 64 <|
    match rangeDispatch .w64 f.zero f.e with
    | .normal => assembleNormal .w64 f.sgn f.e (rneShr f.norm 3)
    | .zero | .overflow | .subnormal | .underflow => f.sgn

/-- The meaning of IBM32IEEE64: it reads `src[31:0]` and drives the 64-bit result (R29, R35, R69). -/
def execIbm32Ieee64 (s : State) : Host.Outcome State Fault Refusal :=
  .next (s.drive (convIbm32Ieee64 (operand32 s.src)))

/-- The meaning of IBM64IEEE64: it reads `src[63:0]` and drives the 64-bit result (R29, R35, R72). -/
def execIbm64Ieee64 (s : State) : Host.Outcome State Fault Refusal :=
  .next (s.drive (convIbm64Ieee64 (operand64 s.src)))

end Sys2Proof.Machine
end

