-- ==== Sys2Proof/Machine/Dispatch.lean ====
section
/-! DEFINITION. The dispatch of the four operations to their meanings (spec/30_encoding.md R27). -/

namespace Sys2Proof.Machine

def exec (i : Instr) (s : State) : Host.Outcome State Fault Refusal :=
  match i with
  | .ibm32ieee32 => Sys2Proof.Machine.execIbm32Ieee32 s
  | .ibm32ieee64 => Sys2Proof.Machine.execIbm32Ieee64 s
  | .ibm64ieee32 => Sys2Proof.Machine.execIbm64Ieee32 s
  | .ibm64ieee64 => Sys2Proof.Machine.execIbm64Ieee64 s

end Sys2Proof.Machine
end

