-- ==== Sys2Proof/Machine/Step.lean ====
section
/-! DEFINITION. One step of the machine is one operation of the block (spec/10_state.md R13): the operation that `op`
selects is applied to `src`, and `result` is driven. The inputs stay as the requester drives them. -/

namespace Sys2Proof.Machine

/-- One operation on the present inputs (R13). -/
def step (s : State) : Host.Outcome State Fault Refusal := exec (selectedInstr s) s

/-- `s` with the operation select of a table word on the `op` port, where the next step reads it. A new input makes
the old result unspecified until the step has formed the new one (R94). -/
def State.withFetchWord (s : State) (nbits w : Nat) : State := s.presentOp (opOfTableWord nbits w)

end Sys2Proof.Machine
end

