-- ==== Sys2Proof/Machine/Convert.lean ====
section
/-! DEFINITION. `Convert(op, src)`: the function of the whole block (spec/40_datapath.md R58), total and without
state. -/

namespace Sys2Proof.Machine

/-- The function of the block, one case for each value of `op` (R58). -/
def convert (op : OpSelect) (src : PortWord) : PortWord :=
  match decodeOp op with
  | .ibm32ieee32 => zext64 (convIbm32Ieee32 (operand32 src))
  | .ibm32ieee64 => convIbm32Ieee64 (operand32 src)
  | .ibm64ieee32 => zext64 (convIbm64Ieee32 (operand64 src))
  | .ibm64ieee64 => convIbm64Ieee64 (operand64 src)

/-- `Convert` on a presented request (R13). -/
def convertRequest (r : Request) : PortWord := convert r.op r.src

end Sys2Proof.Machine
end

