-- ==== Sys2Proof/Machine/Registered.lean ====
section
/-! DEFINITION. A registered implementation of the block (spec/70_reset_and_hazards.md R90, R93): register stages
before it hold requests, register stages after it hold results. It is no part of `State`: the block of the spec is
combinational (R93). `none` in a register is the spec's own "holds no value until written" (R90; log entry 8). -/

namespace Sys2Proof.Machine

/-- The registers around the block, the newest first. -/
structure Registered where
  before : List (Option Request)
  after : List (Option PortWord)
  deriving DecidableEq, Repr

/-- One value goes into a row of registers and the oldest comes out; through no register it passes at once. -/
def shiftIn {α : Type} (x : α) : List α → α × List α
  | [] => (x, [])
  | y :: ys => ((shiftIn y ys).1, x :: (shiftIn y ys).2)

/-- The registers before the first operation: none holds a value (R90). -/
def Registered.powerUp (c : PipeConfig) : Registered :=
  { before := List.replicate c.before none, after := List.replicate c.after none }

/-- One cycle: the request presented in it goes in, and what the output shows in it comes out (R93). -/
def Registered.tick (m : Registered) (input : Option Request) : Option PortWord × Registered :=
  let front := shiftIn input m.before
  let back := shiftIn (front.1.map convertRequest) m.after
  (back.1, { before := front.2, after := back.2 })

/-- What the output shows in each of a sequence of cycles. -/
def Registered.outputs (m : Registered) : List (Option Request) → List (Option PortWord)
  | [] => []
  | x :: xs => (m.tick x).1 :: (m.tick x).2.outputs xs

end Sys2Proof.Machine
end

