-- ==== Sys2Proof/Machine/Requester.lean ====
section
/-! DEFINITION. The requester outside the block: it presents operations one after another and samples each result
(spec/10_state.md R13; spec/20_memory.md R25; spec/70_reset_and_hazards.md R92). -/

namespace Sys2Proof.Machine

/-- The samples a requester takes when it presents these requests in this order, one step each (R13, R25). -/
def serve : State → List Request → List (Option PortWord)
  | _, [] => []
  | s, r :: rs =>
    match step (s.present r) with
    | .next t => t.sample :: serve t rs
    | .fault _ => []
    | .refused _ => []

/-- The requester drives the sampled result back onto `src` with the next operation select (R92). With nothing to
sample it presents nothing. -/
def State.feedBack (s : State) (op : OpSelect) : State :=
  match s.sample with
  | some v => s.present ⟨op, v⟩
  | none => s

/-- The expected result of a trace line, where it has one, is what the block gives (R41). -/
def expectationHolds (l : TraceLine) : Bool :=
  match l.expected with
  | none => true
  | some x => decide ((convertRequest (encodeTraceLine l)).toNat = x)

end Sys2Proof.Machine
end

