-- ==== Sys2Proof/Machine/Staged.lean ====
section
/-! DEFINITION. The staged forms of the datapath's sub-blocks, as the spec lists them one by one: the exponent
alignment (spec/40_datapath.md R44), the hex-digit normaliser (R45), the top-digit leading-zero counter (R46), the
two-step mask form of the rounding unit (R52) and the 12-bit exponent register of a hardware datapath (R50). The spec
says they give what the forms of Machine/Datapath.lean give; that they do is stated for the provers. -/

namespace Sys2Proof.Machine

/-- mask_E: ones in bits SW - 2 down to WF (R44). -/
def exponentMask (sw : Width) : Nat := (2 ^ 7 - 1) <<< fractionWidth sw

/-- The working exponent by one shift of the exponent bits left in place in the container (R44). -/
def alignedExponent (sw : Width) (p : Nat) : Nat := (p &&& exponentMask sw) >>> (sw.bits - 10)

/-- What the digit normaliser holds: F1, x1 and k (R45). -/
structure Normalised where
  fraction : Nat
  exponent : Int
  digits : Nat
  deriving DecidableEq, Repr

/-- The top hex digit of a fraction (R45, R46). -/
def topDigit (w : Width) (f : Nat) : Nat := slice f (fractionWidth w - 1) (fractionWidth w - 4)

/-- The digit normaliser, bounded by the number of turns given (R45). -/
def normaliseLoop (w : Width) : Nat → Normalised → Normalised
  | 0, n => n
  | turns + 1, n =>
    if topDigit w n.fraction = 0 then
      normaliseLoop w turns ⟨n.fraction <<< 4, n.exponent - 4, n.digits + 1⟩
    else n

/-- The hex-digit normaliser: at most D - 1 turns, 5 or 13 (R45, R95). -/
def normaliseDigits (w : Width) (f : Nat) (x0 : Int) : Normalised :=
  normaliseLoop w (hexDigitCount w - 1) ⟨f, x0, 0⟩

/-- The fixed leading-zero lookup of the top hex digit (R46). Its entry for the digit 0 is never read (log
entry 12). -/
def lz4 : Nat → Nat
  | 1 => 3
  | 2 => 2
  | 3 => 2
  | 4 => 1
  | 5 => 1
  | 6 => 1
  | 7 => 1
  | _ => 0

/-- The front end by the separate steps of R42 to R48: digit normaliser, lookup, rebias with lz subtracted once
(spec/90_conflicts.md C2). -/
def frontStaged (sw dw : Width) (p : Nat) : FrontEnd :=
  let f := extract sw p
  if f.fraction = 0 then { sgn := placeSign dw f.sign, zero := true, norm := 0, e := 0 }
  else
    let n := normaliseDigits sw f.fraction (workingExponent f.exponent)
    let lz := lz4 (topDigit sw n.fraction)
    { sgn := placeSign dw f.sign, zero := false, norm := n.fraction <<< lz,
      e := n.exponent + rebiasConstant dw - lz }

/-- The mask of the two-step rounding form: parity and trailing bits, the rounding bit left out (R52;
spec/90_conflicts.md C6). -/
def roundMask (n : Nat) : Nat := 2 ^ n + (2 ^ (n - 1) - 1)

/-- The rounding unit by one mask test and two shifts (R52; spec/90_conflicts.md C7). -/
def rneShrMask (x n : Nat) : Nat :=
  ((x >>> (n - 1)) + (decide ((x &&& roundMask n) ≠ 0)).toNat) >>> 1

/-- e as a hardware rebias adder holds it, in 12-bit two's complement (R50). -/
def exponentRegister (e : Int) : BitVec 12 := BitVec.ofInt 12 e

end Sys2Proof.Machine
end

