-- ==== Sys2Proof/Machine/Values.lean ====
section
/-! DEFINITION. What patterns denote: the value of an IBM pattern (spec/30_encoding.md R32), the fields, class and
value of an IEEE pattern (R34 to R37), and rounding to nearest with ties to even as a property of numbers
(spec/00_scope.md, glossary), independent of the datapath that is to have it. -/

namespace Sys2Proof.Machine

/-- The magnitude of an IBM pattern: 16^(E - 64) * (F / 2^WF) (R32). -/
def ibmMagnitude (sw : Width) (p : Nat) : ℚ :=
  (16 : ℚ) ^ (((extract sw p).exponent : ℤ) - 64) * (((extract sw p).fraction : ℚ) / 2 ^ fractionWidth sw)

/-- The value of an IBM pattern (R32). -/
def ibmValue (sw : Width) (p : Nat) : ℚ := (-1) ^ (extract sw p).sign * ibmMagnitude sw p

/-- The sign field of an IEEE pattern (R34, R35). -/
def ieeeSign (dw : Width) (r : Nat) : Nat := slice r (dw.bits - 1) (dw.bits - 1)

/-- The exponent field of an IEEE pattern (R34, R35). -/
def ieeeExponent (dw : Width) (r : Nat) : Nat := slice r (dw.bits - 2) (significandWidth dw)

/-- The significand field of an IEEE pattern (R34, R35). -/
def ieeeSignificand (dw : Width) (r : Nat) : Nat := slice r (significandWidth dw - 1) 0

/-- A pattern without its sign bit. -/
def ieeeMagnitudeBits (dw : Width) (r : Nat) : Nat := r % 2 ^ (dw.bits - 1)

/-- The kinds of IEEE patterns (R36, R37). -/
inductive IeeeClass where
  | zero
  | subnormal
  | normal
  | infinity
  | nan
  deriving DecidableEq, Repr

/-- The kind of an IEEE pattern (R36; a NaN as R37 defines it). -/
def ieeeClass (dw : Width) (r : Nat) : IeeeClass :=
  if ieeeExponent dw r = 2 ^ exponentWidth dw - 1 then
    if ieeeSignificand dw r = 0 then .infinity else .nan
  else if ieeeExponent dw r = 0 then
    if ieeeSignificand dw r = 0 then .zero else .subnormal
  else .normal

/-- The magnitude of an IEEE pattern by the two formulas of R36. On the infinity pattern the normal formula gives the
power of two that follows the largest finite value, which is what rounding compares with (log entry 9). -/
def ieeeMagnitude (dw : Width) (r : Nat) : ℚ :=
  if ieeeExponent dw r = 0 then
    (2 : ℚ) ^ (1 - ieeeBias dw) * ((ieeeSignificand dw r : ℚ) / 2 ^ significandWidth dw)
  else
    (2 : ℚ) ^ ((ieeeExponent dw r : ℤ) - ieeeBias dw)
      * (1 + (ieeeSignificand dw r : ℚ) / 2 ^ significandWidth dw)

/-- The value of an IEEE pattern, where it denotes a number (R36). -/
def ieeeValue (dw : Width) (r : Nat) : Option ℚ :=
  match ieeeClass dw r with
  | .infinity => none
  | .nan => none
  | .zero => some ((-1) ^ ieeeSign dw r * ieeeMagnitude dw r)
  | .subnormal => some ((-1) ^ ieeeSign dw r * ieeeMagnitude dw r)
  | .normal => some ((-1) ^ ieeeSign dw r * ieeeMagnitude dw r)

/-- The integer `q` is nearest to `x`, and is the even one of two that are equally near (R53). -/
def NearestEvenInteger (x : ℚ) (q : ℤ) : Prop :=
  ∀ k : ℤ, |x - q| ≤ |x - k| ∧ (|x - q| = |x - k| → k = q ∨ q % 2 = 0)

/-- The magnitude pattern `m` is the IEEE pattern of the magnitude `x` rounded to nearest with ties to even: among all
patterns from zero to infinity none is nearer, and where another is equally near the last bit of `m` is 0 (R68). The
infinity pattern stands for the power of two after the largest finite value, so that exactly the magnitudes from the
midpoint on go to it (R64, R68). -/
def RoundsToNearestEven (dw : Width) (x : ℚ) (m : Nat) : Prop :=
  m ≤ infinityPattern dw ∧
    ∀ k : Nat, k ≤ infinityPattern dw →
      |x - ieeeMagnitude dw m| ≤ |x - ieeeMagnitude dw k| ∧
        (|x - ieeeMagnitude dw m| = |x - ieeeMagnitude dw k| → k = m ∨ m % 2 = 0)

end Sys2Proof.Machine
end

