-- ==== Sys2Proof/Safety.lean ====
section
/-! DEFINITION. What claims call a good state of the block: the output, when it has a value, is the conversion of the
present inputs (spec/70_reset_and_hazards.md R90) and a pattern of the kinds the spec allows (spec/30_encoding.md
R37). -/

namespace Sys2Proof.Machine

/-- A step answers a next state (spec/60_exceptions.md R76). -/
def Completes (s : State) : Prop := ∃ t, step s = .next t

/-- The output, when it has a value, is `Convert(op, src)` of the inputs now on the ports (R90). -/
def ResultIsConversion (s : State) : Prop := ∀ v, s.result = some v → v = convert s.op s.src

/-- The patterns a 32-bit destination may give: upper half zero, and no NaN (R34, R37). -/
def LegalResult32 (v : PortWord) : Prop := v.toNat < 2 ^ 32 ∧ ieeeClass .w32 v.toNat ≠ .nan

/-- The patterns a 64-bit destination may give: a zero or a normal number (R37, R71, R74). -/
def LegalResult64 (v : PortWord) : Prop := ieeeClass .w64 v.toNat = .zero ∨ ieeeClass .w64 v.toNat = .normal

/-- The patterns the block may drive while `op` selects an operation (R37). -/
def LegalResult (op : OpSelect) (v : PortWord) : Prop :=
  match (decodeOp op).destWidth with
  | .w32 => LegalResult32 v
  | .w64 => LegalResult64 v

/-- The invariant of the ports: a value on the output is the conversion of the inputs, and is legal. -/
def PortInvariant (s : State) : Prop :=
  ResultIsConversion s ∧ ∀ v, s.result = some v → LegalResult s.op v

end Sys2Proof.Machine
end

