-- ==== Sys2Proof/Certificates/Slice0/Obligations.lean ====
section
/-! DEFINITION. The statements for the provers. Each docstring names the rule of spec/ it formalises, or says that it is
derived or about a choice of the model. -/

open Sys2Proof Sys2Proof.Machine

/-! ### Operation select and trace syntax -/

/-- R27: the four values of `op`, and what each of its two bits selects. -/
def Obligations.OpSelectNamesTheFourOperations : Prop :=
  decodeOp 0b00#2 = .ibm32ieee32 ∧ decodeOp 0b01#2 = .ibm32ieee64 ∧
  decodeOp 0b10#2 = .ibm64ieee32 ∧ decodeOp 0b11#2 = .ibm64ieee64 ∧
  ∀ op : OpSelect,
    (decodeOp op).sourceWidth = (if op.getLsbD 1 then .w64 else .w32) ∧
    (decodeOp op).destWidth = (if op.getLsbD 0 then .w64 else .w32)

/-- Decoder and encoder of `op` are inverse to each other (from R27 and R28: no value of `op` is left over). -/
def Obligations.OpSelectDecodeEncodeAgree : Prop :=
  (∀ i : Instr, decodeOp (encodeOp i) = i) ∧ ∀ op : OpSelect, encodeOp (decodeOp op) = op

/-- The words of spec/opcode_table.json, each in its one byte, decode to their rows' operations. -/
def Obligations.TableWordsDecode : Prop :=
  decodeTableWord 8 0b00000000 = some .ibm32ieee32 ∧ decodeTableWord 8 0b00000001 = some .ibm32ieee64 ∧
  decodeTableWord 8 0b00000010 = some .ibm64ieee32 ∧ decodeTableWord 8 0b00000011 = some .ibm64ieee64

/-- Every well-formed trace line is read back from the characters it is printed as (from R41; blanks and the case of
digits are the model's choice, log entry 10). -/
def Obligations.TraceLineReadsBackAsPrinted : Prop :=
  ∀ l : TraceLine, l.wellFormed = true → parseTraceLine (printTraceLine l) = .ok l

/-- A well-formed trace line encodes as (op, src) with op of R27 and `src[63:32]` zero for a 32-bit source, and one
step on the request it presents runs its operation and samples `Convert` of it (from R41 and R13). -/
def Obligations.TraceLineEncodesAndRuns : Prop :=
  ∀ (l : TraceLine) (s : State), l.wellFormed = true →
    (encodeTraceLine l).op = encodeOp l.instr ∧
    (encodeTraceLine l).src.toNat = l.src ∧
    (l.instr.sourceWidth = .w32 → (encodeTraceLine l).src.toNat < 2 ^ 32) ∧
    step (s.present (encodeTraceLine l)) = exec l.instr (s.present (encodeTraceLine l)) ∧
    serve s [encodeTraceLine l] = [some (convert (encodeOp l.instr) (BitVec.ofNat 64 l.src))]

/-! ### The step, the ports and reset -/

/-- A step runs the operation that the decoder reads from the `op` port. -/
def Obligations.StepRunsTheDecodedOperation : Prop :=
  ∀ (s : State) (i : Instr), decodeOp s.op = i → step s = exec i s

/-- The operation select of a table word placed on the port is what the next step runs, and `src` stays. -/
def Obligations.PlacedTableWordRunsNext : Prop :=
  ∀ (s : State) (nbits w : Nat) (i : Instr), decodeTableWord nbits w = some i →
    step (s.withFetchWord nbits w) = exec i (s.withFetchWord nbits w) ∧
    (s.withFetchWord nbits w).src = s.src

/-- R13: every step answers a next state in which `result` is `Convert(op, src)` and nothing else has changed, for
every value of the ports. -/
def Obligations.StepAppliesConvert : Prop :=
  ∀ s : State, step s = .next { s with result := some (convert s.op s.src) }

/-- An operation's result depends on its operand alone: two states that agree on `src` get the same result, whatever
else they hold (from R13 and R92). -/
def Obligations.ResultIgnoresEarlierOperations : Prop :=
  ∀ (i : Instr) (s t : State), s.src = t.src →
    ∃ v : PortWord, exec i s = .next { s with result := some v } ∧ exec i t = .next { t with result := some v }

/-- An operation may be repeated with the same result; the second step changes nothing (from R22). -/
def Obligations.RepeatedOperationIsIdempotent : Prop :=
  ∀ s t : State, step s = .next t → step t = .next t

/-- Requests served one after another, from any state and in any order, each get `Convert` of their own inputs (from
R25 and R92). -/
def Obligations.ServedRequestsAreIndependent : Prop :=
  ∀ (s : State) (rs : List Request), serve s rs = rs.map (fun r => some (convertRequest r))

/-- The previous result may be the next operand with no wait between (from R92). -/
def Obligations.ResultFedBackNeedsNoWait : Prop :=
  ∀ (s t : State) (op : OpSelect), step s = .next t →
    step (t.feedBack op) =
      .next { op := op, src := convert s.op s.src, result := some (convert op (convert s.op s.src)) }

/-- THE MODEL'S CHOICE (log entry 3, from R94): presenting inputs drives both input ports and leaves the output without
a value, in a state that meets the port invariant. -/
def Obligations.PresentedInputsLeaveNoSample : Prop :=
  ∀ (s : State) (r : Request),
    (s.present r).op = r.op ∧ (s.present r).src = r.src ∧ (s.present r).sample = none ∧
    PortInvariant (s.present r)

/-- Right after power-up the output is the conversion of the inputs (R90). The values on the two inputs are the model's
choice (log entry 2). -/
def Obligations.ResetOutputIsConversion : Prop :=
  State.reset.result = some (convert State.reset.op State.reset.src) ∧ PortInvariant State.reset

/-- Every step from a state that meets the port invariant ends in one that does: the output is the conversion of the
inputs, is no NaN, and for a 64-bit destination is a zero or a normal number (from R13, R37, R71, R74, R90). -/
def Obligations.StepKeepsPortInvariant : Prop :=
  ∀ s t : State, PortInvariant s → step s = .next t → PortInvariant t

/-- R29: operand assembly. A 64-bit source is the whole port; a 32-bit source is its low half, and the high half
changes nothing. -/
def Obligations.OperandAssembly : Prop :=
  (∀ src : PortWord,
    convert 0b10#2 src = (convIbm64Ieee32 src).setWidth 64 ∧ convert 0b11#2 src = convIbm64Ieee64 src ∧
    convert 0b00#2 src = (convIbm32Ieee32 (BitVec.ofNat 32 src.toNat)).setWidth 64 ∧
    convert 0b01#2 src = convIbm32Ieee64 (BitVec.ofNat 32 src.toNat)) ∧
  ∀ (op : OpSelect) (a b : PortWord), op.getLsbD 1 = false → a.toNat % 2 ^ 32 = b.toNat % 2 ^ 32 →
    convert op a = convert op b

/-- R57: a zero fraction gives the placed sign alone, whatever the exponent field, in each of the four operations. -/
def Obligations.ZeroFractionGivesSignedZero : Prop :=
  ∀ src : PortWord,
    (src.toNat % 2 ^ 24 = 0 →
      convert 0b00#2 src = BitVec.ofNat 64 (src.toNat / 2 ^ 31 % 2 * 2 ^ 31) ∧
      convert 0b01#2 src = BitVec.ofNat 64 (src.toNat / 2 ^ 31 % 2 * 2 ^ 63)) ∧
    (src.toNat % 2 ^ 56 = 0 →
      convert 0b10#2 src = BitVec.ofNat 64 (src.toNat / 2 ^ 63 * 2 ^ 31) ∧
      convert 0b11#2 src = BitVec.ofNat 64 (src.toNat / 2 ^ 63 * 2 ^ 63))

/-- R37: every result is a zero, a normal number, a subnormal number or, for a 32-bit destination only, an infinity of
the pattern 0x7F800000 plus the sign; none is a NaN. -/
def Obligations.EveryResultIsLegal : Prop :=
  ∀ (op : OpSelect) (src : PortWord),
    LegalResult op (convert op src) ∧
    (op.getLsbD 0 = false → ieeeClass .w32 (convert op src).toNat = .infinity →
      (convert op src).toNat = 0x7F800000 ∨ (convert op src).toNat = 0x7F800000 + 2 ^ 31)

/-! ### What each operation does to every state: its result, and nothing else changed -/

/-- R59: IBM32IEEE32 answers a next state, for every state, whose result is given by the rule's five cases; the two
input ports are unchanged. -/
def Obligations.Ibm32Ieee32Completes : Prop :=
  encodeOp .ibm32ieee32 = 0b00#2 ∧
  (∀ s : State,
    let p := s.src.toNat % 2 ^ 32
    let sgn := p / 2 ^ 31 * 2 ^ 31
    let fraction := p % 2 ^ 24
    let shift := 23 - Nat.log2 fraction
    let norm := fraction * 2 ^ shift
    let e : Int := 4 * ((p / 2 ^ 24 % 2 ^ 7 : Nat) : Int) - (shift : Int) - 131
    exec .ibm32ieee32 s = .next { s with result := some (BitVec.ofNat 64
      (if fraction = 0 then sgn
       else if 0 ≤ e ∧ e < 254 then sgn + e.toNat * 2 ^ 23 + norm
       else if 254 ≤ e then sgn + 0x7F800000
       else if -32 ≤ e then sgn + rneShr norm (-e).toNat
       else sgn)) }) ∧
  convert 0b00#2 0xC276A000#64 = 0xC2ED4000#64 ∧
  convert 0b00#2 0x42010000#64 = 0x3F800000#64 ∧ convert 0b00#2 0x41100000#64 = 0x3F800000#64

/-- R62: IBM64IEEE32 answers a next state, for every state, whose result is given by the rule's five cases; the two
input ports are unchanged. -/
def Obligations.Ibm64Ieee32Completes : Prop :=
  encodeOp .ibm64ieee32 = 0b10#2 ∧
  (∀ s : State,
    let p := s.src.toNat
    let sgn := p / 2 ^ 63 * 2 ^ 31
    let fraction := p % 2 ^ 56
    let shift := 55 - Nat.log2 fraction
    let norm := fraction * 2 ^ shift
    let e : Int := 4 * ((p / 2 ^ 56 % 2 ^ 7 : Nat) : Int) - (shift : Int) - 131
    exec .ibm64ieee32 s = .next { s with result := some (BitVec.ofNat 64
      (if fraction = 0 then sgn
       else if 0 ≤ e ∧ e < 254 then sgn + e.toNat * 2 ^ 23 + rneShr norm 32
       else if 254 ≤ e then sgn + 0x7F800000
       else if -32 ≤ e then sgn + rneShr norm (32 - e).toNat
       else sgn)) }) ∧
  convert 0b10#2 0x4110000030000000#64 = 0x3F800002#64

/-- R69: IBM32IEEE64 answers a next state, for every state, whose result is the signed zero or the exactly widened
value; the two input ports are unchanged. -/
def Obligations.Ibm32Ieee64Completes : Prop :=
  encodeOp .ibm32ieee64 = 0b01#2 ∧
  (∀ s : State,
    let p := s.src.toNat % 2 ^ 32
    let sgn := p / 2 ^ 31 * 2 ^ 63
    let fraction := p % 2 ^ 24
    let shift := 23 - Nat.log2 fraction
    let norm := fraction * 2 ^ shift
    let e : Int := 4 * ((p / 2 ^ 24 % 2 ^ 7 : Nat) : Int) - (shift : Int) + 765
    exec .ibm32ieee64 s = .next { s with result := some (BitVec.ofNat 64
      (if fraction = 0 then sgn else sgn + e.toNat * 2 ^ 52 + norm * 2 ^ 29)) }) ∧
  convert 0b01#2 0x41100000#64 = 0x3FF0000000000000#64 ∧
  convert 0b01#2 0x00000001#64 = 0x2E70000000000000#64 ∧ convert 0b01#2 0x7FFFFFFF#64 = 0x4FAFFFFFE0000000#64

/-- R72: IBM64IEEE64 answers a next state, for every state, whose result is the signed zero or the value rounded by a
shift of 3; the two input ports are unchanged. -/
def Obligations.Ibm64Ieee64Completes : Prop :=
  encodeOp .ibm64ieee64 = 0b11#2 ∧
  (∀ s : State,
    let p := s.src.toNat
    let sgn := p / 2 ^ 63 * 2 ^ 63
    let fraction := p % 2 ^ 56
    let shift := 55 - Nat.log2 fraction
    let norm := fraction * 2 ^ shift
    let e : Int := 4 * ((p / 2 ^ 56 % 2 ^ 7 : Nat) : Int) - (shift : Int) + 765
    exec .ibm64ieee64 s = .next { s with result := some (BitVec.ofNat 64
      (if fraction = 0 then sgn else sgn + e.toNat * 2 ^ 52 + rneShr norm 3)) }) ∧
  convert 0b11#2 0x4110000000000000#64 = 0x3FF0000000000000#64 ∧
  convert 0b11#2 0x7FFFFFFFFFFFFFFF#64 = 0x4FB0000000000000#64

/-! ### The shared datapath -/

/-- R44: the working exponent is four times the exponent field, and one shift of the exponent bits left in place gives
it. -/
def Obligations.WorkingExponentByAlignment : Prop :=
  ∀ (sw : Width) (p : Nat),
    workingExponent (extract sw p).exponent = 4 * ((extract sw p).exponent : Int) ∧
    (alignedExponent sw p : Int) = workingExponent (extract sw p).exponent ∧
    alignedExponent sw p ≤ 508

/-- R45: the digit normaliser counts the leading zero hex digits in at most D - 1 turns, shifts them out and charges
four to the exponent for each. -/
def Obligations.DigitNormaliserRemovesLeadingZeroDigits : Prop :=
  ∀ (w : Width) (f : Nat) (x0 : Int), 0 < f → f < 2 ^ fractionWidth w →
    let n := normaliseDigits w f x0
    n.digits ≤ hexDigitCount w - 1 ∧
    n.fraction = f * 2 ^ (4 * n.digits) ∧ n.fraction < 2 ^ fractionWidth w ∧
    n.exponent = x0 - 4 * (n.digits : Int) ∧
    topDigit w n.fraction ≠ 0 ∧
    16 ^ (hexDigitCount w - n.digits - 1) ≤ f ∧ f < 16 ^ (hexDigitCount w - n.digits)

/-- The lookup of the top digit is its count of leading zero bits as a 4-bit value (from R46). -/
def Obligations.TopDigitLookupCountsLeadingZeros : Prop :=
  ∀ d : Nat, 1 ≤ d → d ≤ 15 → lz4 d ≤ 3 ∧ 2 ^ (3 - lz4 d) ≤ d ∧ d < 2 ^ (4 - lz4 d)

/-- R47: digits first and bits second, or all at once, the net shift, the normalised significand and the
exponent are the same. -/
def Obligations.FusedLeadingZeroCountMatchesStaged : Prop :=
  ∀ (w : Width) (f : Nat) (x0 : Int), 0 < f → f < 2 ^ fractionWidth w →
    let n := normaliseDigits w f x0
    let lz := lz4 (topDigit w n.fraction)
    4 * n.digits + lz = clz (fractionWidth w) f ∧ clz (fractionWidth w) f ≤ fractionWidth w - 1 ∧
    n.exponent - (lz : Int) = x0 - (clz (fractionWidth w) f : Int) ∧
    n.fraction <<< lz = f <<< clz (fractionWidth w) f ∧
    2 ^ (fractionWidth w - 1) ≤ f <<< clz (fractionWidth w) f ∧
    f <<< clz (fractionWidth w) f < 2 ^ fractionWidth w

/-- R48: the rebias adder, in each of its three forms, with its constant. -/
def Obligations.RebiasAdderForms : Prop :=
  rebiasConstant .w32 = -131 ∧ rebiasConstant .w64 = 765 ∧
  ∀ (sw dw : Width) (p : Nat), (extract sw p).fraction ≠ 0 →
    let f := extract sw p
    let n := normaliseDigits sw f.fraction (workingExponent f.exponent)
    let lz : Int := (lz4 (topDigit sw n.fraction) : Nat)
    (front sw dw p).e = n.exponent + rebiasConstant dw - lz ∧
    (front sw dw p).e = 4 * (f.exponent : Int) - 4 * (n.digits : Int) - lz + rebiasConstant dw ∧
    (front sw dw p).e = 4 * (f.exponent : Int) - (clz (fractionWidth sw) f.fraction : Int) + rebiasConstant dw

/-- The front end built from the separate sub-blocks is the front end of R58 (from R42 to R48 and R58). -/
def Obligations.StagedFrontEndEqualsFused : Prop :=
  ∀ (sw dw : Width) (p : Nat), frontStaged sw dw p = front sw dw p

/-- R49: what K folds, and the value identity it gives. -/
def Obligations.RebiasValueIdentity : Prop :=
  (∀ dw : Width, rebiasConstant dw = ieeeBias dw - 256 - 1 - 1) ∧
  (fractionWidth .w64 : ℤ) - significandWidth .w32 - 1 = 32 ∧
  (fractionWidth .w64 : ℤ) - significandWidth .w64 - 1 = 3 ∧
  (fractionWidth .w32 : ℤ) - significandWidth .w32 - 1 = 0 ∧
  (fractionWidth .w32 : ℤ) - significandWidth .w64 - 1 = -29 ∧
  ∀ (sw dw : Width) (p : Nat), (extract sw p).fraction ≠ 0 →
    let f := front sw dw p
    ibmMagnitude sw p =
      (f.norm : ℚ) * (2 : ℚ) ^ (f.e - rebiasConstant dw - 256 - (fractionWidth sw : ℤ)) ∧
    ibmMagnitude sw p =
      (f.norm : ℚ) / (2 : ℚ) ^ ((fractionWidth sw : ℤ) - significandWidth dw - 1)
        * (2 : ℚ) ^ ((f.e + 1) - ieeeBias dw - (significandWidth dw : ℤ))

/-- R50: the ranges of e, where their ends are reached, and that a 12-bit two's-complement register holds e exactly. -/
def Obligations.ComputedExponentRanges : Prop :=
  (∀ p : Nat, (extract .w32 p).fraction ≠ 0 →
    -154 ≤ (front .w32 .w32 p).e ∧ (front .w32 .w32 p).e ≤ 377 ∧
    742 ≤ (front .w32 .w64 p).e ∧ (front .w32 .w64 p).e ≤ 1273) ∧
  (∀ p : Nat, (extract .w64 p).fraction ≠ 0 →
    -186 ≤ (front .w64 .w32 p).e ∧ (front .w64 .w32 p).e ≤ 377 ∧
    710 ≤ (front .w64 .w64 p).e ∧ (front .w64 .w64 p).e ≤ 1273) ∧
  (front .w32 .w32 1).e = -154 ∧ (front .w32 .w64 1).e = 742 ∧
  (front .w64 .w32 1).e = -186 ∧ (front .w64 .w64 1).e = 710 ∧
  (∀ p : Nat, (extract .w32 p).exponent = 127 → 0x800000 ≤ (extract .w32 p).fraction →
    (front .w32 .w32 p).e = 377 ∧ (front .w32 .w64 p).e = 1273) ∧
  (∀ p : Nat, (extract .w64 p).exponent = 127 → 2 ^ 55 ≤ (extract .w64 p).fraction →
    (front .w64 .w32 p).e = 377 ∧ (front .w64 .w64 p).e = 1273) ∧
  ∀ (sw dw : Width) (p : Nat), (extract sw p).fraction ≠ 0 →
    (exponentRegister (front sw dw p).e).toInt = (front sw dw p).e

/-- R51: the rounding unit rounds up if and only if the rounding bit is 1 and the parity bit or a trailing bit is 1. -/
def Obligations.RoundingUnitBitRule : Prop :=
  ∀ x n : Nat, 1 ≤ n →
    (x.testBit (n - 1) = true ∧ (x.testBit n = true ∨ ∃ j, j < n - 1 ∧ x.testBit j = true) →
      rneShr x n = x / 2 ^ n + 1) ∧
    (¬(x.testBit (n - 1) = true ∧ (x.testBit n = true ∨ ∃ j, j < n - 1 ∧ x.testBit j = true)) →
      rneShr x n = x / 2 ^ n)

/-- R52: the mask form equals the bit form for every x and every n >= 1, with the two printed masks. -/
def Obligations.RoundingMaskFormEqualsBitForm : Prop :=
  (∀ x n : Nat, 1 ≤ n → rneShrMask x n = rneShr x n) ∧ roundMask 3 = 0xB ∧ roundMask 32 = 0x17FFFFFFF

/-- R53: the rounding unit computes the nearest integer, ties to even, and its carry out of the retained bits gives
the next power of two. -/
def Obligations.RoundingUnitIsNearestEven : Prop :=
  ∀ x n : Nat, 1 ≤ n →
    NearestEvenInteger ((x : ℚ) / 2 ^ n) (rneShr x n : ℤ) ∧
    (rneShr x n = x / 2 ^ n ∨ rneShr x n = x / 2 ^ n + 1) ∧
    ∀ j : Nat, x / 2 ^ n = 2 ^ j - 1 → rneShr x n ≠ x / 2 ^ n → rneShr x n = 2 ^ j

/-- R55: the assembler's sums lose no bit and leave the sign alone, and the hidden bit and the rounding carry land in
the exponent field. -/
def Obligations.AssemblerFields : Prop :=
  (∀ (dw : Width) (b m : Nat) (e : Int), b ≤ 1 → 0 ≤ e →
    e ≤ (match dw with | .w32 => 253 | .w64 => 1273) →
    2 ^ significandWidth dw ≤ m → m ≤ 2 ^ (significandWidth dw + 1) →
    let r := assembleNormal dw (placeSign dw b) e m
    r = placeSign dw b + e.toNat * 2 ^ significandWidth dw + m ∧
    ieeeSign dw r = b ∧
    (ieeeExponent dw r : Int) = e + 1 + ((m / 2 ^ (significandWidth dw + 1) : Nat) : Int) ∧
    ieeeSignificand dw r = m % 2 ^ significandWidth dw) ∧
  (∀ b m : Nat, b ≤ 1 → m ≤ 2 ^ 23 →
    let r := assembleSubnormal .w32 (placeSign .w32 b) m
    r = placeSign .w32 b + m ∧ ieeeSign .w32 r = b ∧
    ieeeExponent .w32 r = m / 2 ^ 23 ∧ ieeeSignificand .w32 r = m % 2 ^ 23)

/-- R56: exactly one path applies to each operation, and which one. -/
def Obligations.RangeDispatchPaths : Prop :=
  ∀ (dw : Width) (zero : Bool) (e : Int),
    (rangeDispatch dw zero e = .zero ↔ zero = true) ∧
    (rangeDispatch dw zero e = .normal ↔ zero = false ∧ (dw = .w64 ∨ (0 ≤ e ∧ e < 254))) ∧
    (rangeDispatch dw zero e = .overflow ↔ zero = false ∧ dw = .w32 ∧ 254 ≤ e) ∧
    (rangeDispatch dw zero e = .subnormal ↔ zero = false ∧ dw = .w32 ∧ -32 ≤ e ∧ e < 0) ∧
    (rangeDispatch dw zero e = .underflow ↔ zero = false ∧ dw = .w32 ∧ e < -32)

/-! ### Conversions to IEEE 32-bit -/

/-- R60: on the normal path IBM32IEEE32 is exact, with the fields the rule gives. -/
def Obligations.Ibm32Ieee32NormalPathExact : Prop :=
  ∀ p : BitVec 32,
    let f := front .w32 .w32 p.toNat
    let r := (convIbm32Ieee32 p).toNat
    f.zero = false → 0 ≤ f.e → f.e < 254 →
      ieeeValue .w32 r = some (ibmValue .w32 p.toNat) ∧
      (ieeeExponent .w32 r : Int) = f.e + 1 ∧ 1 ≤ ieeeExponent .w32 r ∧ ieeeExponent .w32 r ≤ 254 ∧
      2 ^ 23 ≤ f.norm ∧ ieeeSignificand .w32 r = f.norm - 2 ^ 23

/-- R61: IBM32IEEE32 overflows exactly from the magnitude 2^128 on, and no 32-bit IBM value lies between the largest
finite value and 2^128. -/
def Obligations.Ibm32Ieee32OverflowsFromTwoPow128 : Prop :=
  (∀ p : BitVec 32,
    let f := front .w32 .w32 p.toNat
    let m := ibmMagnitude .w32 p.toNat
    ((convIbm32Ieee32 p).toNat = f.sgn + 0x7F800000 ↔ (2 : ℚ) ^ 128 ≤ m) ∧
    (254 ≤ f.e ↔ (2 : ℚ) ^ 128 ≤ m) ∧
    (m < 2 ^ 128 → m ≤ (2 - 1 / 2 ^ 23) * 2 ^ 127)) ∧
  ibmMagnitude .w32 0x60FFFFFF = (2 - 1 / 2 ^ 23) * 2 ^ 127 ∧ convIbm32Ieee32 0x60FFFFFF#32 = 0x7F7FFFFF#32 ∧
  ibmMagnitude .w32 0x61100000 = 2 ^ 128 ∧ convIbm32Ieee32 0x61100000#32 = 0x7F800000#32

/-- R63: rounding and carry on IBM64IEEE32's normal path. -/
def Obligations.Ibm64Ieee32NormalPathCarry : Prop :=
  (∀ p : BitVec 64,
    let f := front .w64 .w32 p.toNat
    let m := rneShr f.norm 32
    let r := (convIbm64Ieee32 p).toNat
    f.zero = false → 0 ≤ f.e → f.e < 254 →
      NearestEvenInteger ((f.norm : ℚ) / 2 ^ 32) (m : ℤ) ∧ 2 ^ 23 ≤ m ∧ m ≤ 2 ^ 24 ∧
      (m = 2 ^ 24 ↔ 2 ^ 56 - 2 ^ 31 ≤ f.norm) ∧
      (m = 2 ^ 24 → (ieeeExponent .w32 r : Int) = f.e + 2 ∧ ieeeSignificand .w32 r = 0) ∧
      (m < 2 ^ 24 → (ieeeExponent .w32 r : Int) = f.e + 1 ∧ ieeeSignificand .w32 r = m - 2 ^ 23)) ∧
  convIbm64Ieee32 0x41FFFFFF80000000#64 = 0x41800000#32 ∧ convIbm64Ieee32 0x41FFFFFF7FFFFFFF#64 = 0x417FFFFF#32

/-- R64: IBM64IEEE32 gives infinity exactly from the midpoint between the largest finite value and 2^128 on, by the
overflow path from 2^128 on and by a rounding carry below it. -/
def Obligations.Ibm64Ieee32OverflowsFromMidpoint : Prop :=
  (∀ p : BitVec 64,
    let f := front .w64 .w32 p.toNat
    let m := ibmMagnitude .w64 p.toNat
    let r := (convIbm64Ieee32 p).toNat
    (r = f.sgn + 0x7F800000 ↔ ((2 : ℚ) - 1 / 2 ^ 24) * 2 ^ 127 ≤ m) ∧
    (254 ≤ f.e ↔ (2 : ℚ) ^ 128 ≤ m) ∧
    (((2 : ℚ) - 1 / 2 ^ 24) * 2 ^ 127 ≤ m → m < 2 ^ 128 → f.e = 253 ∧ rneShr f.norm 32 = 2 ^ 24) ∧
    (((2 : ℚ) - 1 / 2 ^ 23) * 2 ^ 127 < m → m < (2 - 1 / 2 ^ 24) * 2 ^ 127 → r = f.sgn + 0x7F7FFFFF)) ∧
  convIbm64Ieee32 0x60FFFFFF7FFFFFFF#64 = 0x7F7FFFFF#32 ∧
  convIbm64Ieee32 0x60FFFFFF00000001#64 = 0x7F7FFFFF#32 ∧
  convIbm64Ieee32 0x60FFFFFF80000000#64 = 0x7F800000#32

/-- R65: the subnormal path of both operations rounds the magnitude to the nearest multiple of 2^-149, ties to even. -/
def Obligations.SubnormalPathRoundsToNearestEven : Prop :=
  (∀ p : BitVec 32,
    let f := front .w32 .w32 p.toNat
    let m := rneShr f.norm (-f.e).toNat
    let r := (convIbm32Ieee32 p).toNat
    f.zero = false → -32 ≤ f.e → f.e < 0 →
      r = f.sgn + m ∧ NearestEvenInteger (ibmMagnitude .w32 p.toNat / (2 : ℚ) ^ (-149 : ℤ)) (m : ℤ) ∧
      m ≤ 2 ^ 23 ∧ ieeeExponent .w32 r = m / 2 ^ 23 ∧ ieeeSignificand .w32 r = m % 2 ^ 23 ∧
      (f.e ≤ -25 → ibmMagnitude .w32 p.toNat < (2 : ℚ) ^ (-150 : ℤ) ∧ m = 0)) ∧
  (∀ p : BitVec 64,
    let f := front .w64 .w32 p.toNat
    let m := rneShr f.norm (32 - f.e).toNat
    let r := (convIbm64Ieee32 p).toNat
    f.zero = false → -32 ≤ f.e → f.e < 0 →
      r = f.sgn + m ∧ NearestEvenInteger (ibmMagnitude .w64 p.toNat / (2 : ℚ) ^ (-149 : ℤ)) (m : ℤ) ∧
      m ≤ 2 ^ 23 ∧ ieeeExponent .w32 r = m / 2 ^ 23 ∧ ieeeSignificand .w32 r = m % 2 ^ 23) ∧
  convIbm32Ieee32 0x21200000#32 = 0x00400000#32 ∧ convIbm32Ieee32 0x1B800000#32 = 0x00000001#32 ∧
  convIbm32Ieee32 0x1BC00000#32 = 0x00000002#32 ∧ convIbm32Ieee32 0x20FFFFFF#32 = 0x00200000#32

/-- R66: the carry from the subnormal path into the normal range, which happens for IBM64IEEE32 only. -/
def Obligations.SubnormalCarryIntoNormalRange : Prop :=
  (∀ p : BitVec 64,
    let f := front .w64 .w32 p.toNat
    f.zero = false → f.e = -1 → 2 ^ 56 - 2 ^ 32 ≤ f.norm →
      rneShr f.norm 33 = 2 ^ 23 ∧ (convIbm64Ieee32 p).toNat = f.sgn + 0x00800000) ∧
  (∀ p : BitVec 32,
    let f := front .w32 .w32 p.toNat
    f.zero = false → f.e = -1 →
      clz 24 (extract .w32 p.toNat).fraction % 4 = 2 ∧ f.norm % 2 = 0 ∧
      ieeeExponent .w32 (convIbm32Ieee32 p).toNat = 0) ∧
  convIbm64Ieee32 0x213FFFFFFFFFFFFF#64 = 0x00800000#32 ∧ convIbm64Ieee32 0x213FFFFFC0000000#64 = 0x00800000#32 ∧
  convIbm64Ieee32 0x213FFFFFBFFFFFFF#64 = 0x007FFFFF#32

/-- R67: magnitudes up to 2^-150 give the signed zero, those above it up to 2^-149 the smallest subnormal. -/
def Obligations.UnderflowToSignedZero : Prop :=
  (∀ p : BitVec 32,
    let f := front .w32 .w32 p.toNat
    let m := ibmMagnitude .w32 p.toNat
    let r := (convIbm32Ieee32 p).toNat
    (f.zero = false → f.e < -32 → r = f.sgn ∧ m < (2 : ℚ) ^ (-158 : ℤ)) ∧
    (m ≤ (2 : ℚ) ^ (-150 : ℤ) → r = f.sgn) ∧
    ((2 : ℚ) ^ (-150 : ℤ) < m → m ≤ (2 : ℚ) ^ (-149 : ℤ) → r = f.sgn + 1)) ∧
  (∀ p : BitVec 64,
    let f := front .w64 .w32 p.toNat
    let m := ibmMagnitude .w64 p.toNat
    let r := (convIbm64Ieee32 p).toNat
    (f.zero = false → f.e < -32 → r = f.sgn ∧ m < (2 : ℚ) ^ (-158 : ℤ)) ∧
    (m ≤ (2 : ℚ) ^ (-150 : ℤ) → r = f.sgn) ∧
    ((2 : ℚ) ^ (-150 : ℤ) < m → m ≤ (2 : ℚ) ^ (-149 : ℤ) → r = f.sgn + 1)) ∧
  convIbm32Ieee32 0x1B400000#32 = 0x00000000#32 ∧ convIbm32Ieee32 0x1B400001#32 = 0x00000001#32 ∧
  convIbm32Ieee32 0x80000001#32 = 0x80000000#32

/-- From R68 (a): both conversions to 32 bits are correctly rounded, for every input, and keep the sign. That the
infinity pattern stands for 2^128 when distances are compared is the model's reading (log entry 9). -/
def Obligations.ToIeee32CorrectlyRounded : Prop :=
  (∀ p : BitVec 32,
    RoundsToNearestEven .w32 (ibmMagnitude .w32 p.toNat) (ieeeMagnitudeBits .w32 (convIbm32Ieee32 p).toNat) ∧
    ieeeSign .w32 (convIbm32Ieee32 p).toNat = (extract .w32 p.toNat).sign) ∧
  ∀ p : BitVec 64,
    RoundsToNearestEven .w32 (ibmMagnitude .w64 p.toNat) (ieeeMagnitudeBits .w32 (convIbm64Ieee32 p).toNat) ∧
    ieeeSign .w32 (convIbm64Ieee32 p).toNat = (extract .w64 p.toNat).sign

/-- From R68 (c): a larger magnitude never gives a smaller result magnitude, in both conversions to 32 bits. -/
def Obligations.ToIeee32Monotone : Prop :=
  (∀ p q : BitVec 32, ibmMagnitude .w32 p.toNat ≤ ibmMagnitude .w32 q.toNat →
    ieeeMagnitudeBits .w32 (convIbm32Ieee32 p).toNat ≤ ieeeMagnitudeBits .w32 (convIbm32Ieee32 q).toNat) ∧
  ∀ p q : BitVec 64, ibmMagnitude .w64 p.toNat ≤ ibmMagnitude .w64 q.toNat →
    ieeeMagnitudeBits .w32 (convIbm64Ieee32 p).toNat ≤ ieeeMagnitudeBits .w32 (convIbm64Ieee32 q).toNat

/-! ### Conversions to IEEE 64-bit -/

/-- R70: IBM32IEEE64 is exact for every input, with the fields the rule gives. -/
def Obligations.Ibm32Ieee64WideningExact : Prop :=
  ∀ p : BitVec 32,
    let f := front .w32 .w64 p.toNat
    let r := (convIbm32Ieee64 p).toNat
    ieeeValue .w64 r = some (ibmValue .w32 p.toNat) ∧ r % 2 ^ 29 = 0 ∧
    (f.zero = false →
      (ieeeExponent .w64 r : Int) = f.e + 1 ∧ 743 ≤ ieeeExponent .w64 r ∧ ieeeExponent .w64 r ≤ 1274 ∧
      2 ^ 52 ≤ f.norm * 2 ^ 29 ∧ ieeeSignificand .w64 r = f.norm * 2 ^ 29 - 2 ^ 52)

/-- R71: IBM32IEEE64 has no overflow and no subnormal result. -/
def Obligations.Ibm32Ieee64AlwaysNormal : Prop :=
  ∀ p : BitVec 32,
    let f := front .w32 .w64 p.toNat
    let r := (convIbm32Ieee64 p).toNat
    f.zero = false →
      742 ≤ f.e ∧ f.e ≤ 1273 ∧ 743 ≤ ieeeExponent .w64 r ∧ ieeeExponent .w64 r ≤ 1274 ∧
      ieeeClass .w64 r = .normal ∧
      (2 : ℚ) ^ (-280 : ℤ) ≤ ibmMagnitude .w32 p.toNat ∧ ibmMagnitude .w32 p.toNat < 2 ^ 252

/-- R73: rounding and carry of IBM64IEEE64. -/
def Obligations.Ibm64Ieee64RoundingCarry : Prop :=
  (∀ p : BitVec 64,
    let f := front .w64 .w64 p.toNat
    let m := rneShr f.norm 3
    let r := (convIbm64Ieee64 p).toNat
    f.zero = false →
      NearestEvenInteger ((f.norm : ℚ) / 8) (m : ℤ) ∧ 2 ^ 52 ≤ m ∧ m ≤ 2 ^ 53 ∧
      (m = 2 ^ 53 ↔ 2 ^ 56 - 4 ≤ f.norm) ∧
      (m = 2 ^ 53 → (ieeeExponent .w64 r : Int) = f.e + 2 ∧ ieeeSignificand .w64 r = 0) ∧
      (m < 2 ^ 53 → (ieeeExponent .w64 r : Int) = f.e + 1 ∧ ieeeSignificand .w64 r = m - 2 ^ 52)) ∧
  convIbm64Ieee64 0x4180000000000004#64 = 0x4020000000000000#64 ∧
  convIbm64Ieee64 0x418000000000000C#64 = 0x4020000000000002#64 ∧
  convIbm64Ieee64 0x41FFFFFFFFFFFFFC#64 = 0x4030000000000000#64 ∧
  convIbm64Ieee64 0x41FFFFFFFFFFFFFB#64 = 0x402FFFFFFFFFFFFF#64

/-- R74: IBM64IEEE64 has no overflow and no subnormal result. -/
def Obligations.Ibm64Ieee64AlwaysNormal : Prop :=
  ∀ p : BitVec 64,
    let f := front .w64 .w64 p.toNat
    let r := (convIbm64Ieee64 p).toNat
    f.zero = false →
      710 ≤ f.e ∧ f.e ≤ 1273 ∧ 711 ≤ ieeeExponent .w64 r ∧ ieeeExponent .w64 r ≤ 1275 ∧
      ieeeClass .w64 r = .normal ∧
      (2 : ℚ) ^ (-312 : ℤ) ≤ ibmMagnitude .w64 p.toNat ∧ ibmMagnitude .w64 p.toNat < 2 ^ 252

/-- From R75 (a): both conversions to 64 bits are correctly rounded, for every input, and keep the sign. That the
infinity pattern stands for 2^1024 when distances are compared is the model's reading (log entry 9). -/
def Obligations.ToIeee64CorrectlyRounded : Prop :=
  (∀ p : BitVec 32,
    RoundsToNearestEven .w64 (ibmMagnitude .w32 p.toNat) (ieeeMagnitudeBits .w64 (convIbm32Ieee64 p).toNat) ∧
    ieeeSign .w64 (convIbm32Ieee64 p).toNat = (extract .w32 p.toNat).sign) ∧
  ∀ p : BitVec 64,
    RoundsToNearestEven .w64 (ibmMagnitude .w64 p.toNat) (ieeeMagnitudeBits .w64 (convIbm64Ieee64 p).toNat) ∧
    ieeeSign .w64 (convIbm64Ieee64 p).toNat = (extract .w64 p.toNat).sign

/-- From R75 (c): a larger magnitude never gives a smaller result magnitude, in both conversions to 64 bits. -/
def Obligations.ToIeee64Monotone : Prop :=
  (∀ p q : BitVec 32, ibmMagnitude .w32 p.toNat ≤ ibmMagnitude .w32 q.toNat →
    ieeeMagnitudeBits .w64 (convIbm32Ieee64 p).toNat ≤ ieeeMagnitudeBits .w64 (convIbm32Ieee64 q).toNat) ∧
  ∀ p q : BitVec 64, ibmMagnitude .w64 p.toNat ≤ ibmMagnitude .w64 q.toNat →
    ieeeMagnitudeBits .w64 (convIbm64Ieee64 p).toNat ≤ ieeeMagnitudeBits .w64 (convIbm64Ieee64 q).toNat

/-! ### Laws of both families -/

/-- From R68 (b) and R75 (b): flipping the sign bit of the input flips the sign bit of the result and no other bit. -/
def Obligations.SignBitFlipsAlone : Prop :=
  (∀ p : BitVec 32,
    convIbm32Ieee32 (p ^^^ 0x80000000#32) = convIbm32Ieee32 p ^^^ 0x80000000#32 ∧
    convIbm32Ieee64 (p ^^^ 0x80000000#32) = convIbm32Ieee64 p ^^^ 0x8000000000000000#64) ∧
  ∀ p : BitVec 64,
    convIbm64Ieee32 (p ^^^ 0x8000000000000000#64) = convIbm64Ieee32 p ^^^ 0x80000000#32 ∧
    convIbm64Ieee64 (p ^^^ 0x8000000000000000#64) = convIbm64Ieee64 p ^^^ 0x8000000000000000#64

/-- From R68 (d) and R75 (d): patterns of the same value and sign, normalised or not, give the same result. -/
def Obligations.ResultDependsOnValueAndSign : Prop :=
  (∀ p q : BitVec 32, (extract .w32 p.toNat).sign = (extract .w32 q.toNat).sign →
    ibmValue .w32 p.toNat = ibmValue .w32 q.toNat →
      convIbm32Ieee32 p = convIbm32Ieee32 q ∧ convIbm32Ieee64 p = convIbm32Ieee64 q) ∧
  ∀ p q : BitVec 64, (extract .w64 p.toNat).sign = (extract .w64 q.toNat).sign →
    ibmValue .w64 p.toNat = ibmValue .w64 q.toNat →
      convIbm64Ieee32 p = convIbm64Ieee32 q ∧ convIbm64Ieee64 p = convIbm64Ieee64 q

/-! ### A registered implementation -/

/-- With any registers before and after the block, from power-up and for every sequence of cycles, the output shows
nothing for PIPE_LATENCY cycles and then `Convert` of every presented operation, in the order of presentation (from R90
and R93; the cycle model is log entry 8). -/
def Obligations.RegisteredImplementationDeliversInOrder : Prop :=
  ∀ (c : PipeConfig) (inputs : List (Option Request)),
    (Registered.powerUp c).outputs inputs =
      (List.replicate c.latency none ++ inputs.map (fun x : Option Request => x.map convertRequest)).take inputs.length
end

