-- ==== Sys2Proof/Laws/Datapath.lean ====
section
/-! SUPPORT. What each block of the datapath can do, once, in plain arithmetic. -/

namespace Sys2Proof.Machine

/-! ### Slices and fields (R6, R42) -/

theorem slice_eq (v hi lo : Nat) : slice v hi lo = v / 2 ^ lo % 2 ^ (hi + 1 - lo) := by
  rw [slice, Nat.shiftRight_eq_div_pow]

theorem slice_lt (v hi lo : Nat) : slice v hi lo < 2 ^ (hi + 1 - lo) :=
  Nat.mod_lt _ (Nat.two_pow_pos _)

@[simp] theorem extract_sign_w32 (p : Nat) : (extract .w32 p).sign = p / 2 ^ 31 % 2 := slice_eq p 31 31
@[simp] theorem extract_exponent_w32 (p : Nat) : (extract .w32 p).exponent = p / 2 ^ 24 % 2 ^ 7 := slice_eq p 30 24
@[simp] theorem extract_fraction_w32 (p : Nat) : (extract .w32 p).fraction = p % 2 ^ 24 :=
  (slice_eq p 23 0).trans (by simp)

@[simp] theorem extract_sign_w64 (p : Nat) : (extract .w64 p).sign = p / 2 ^ 63 % 2 := slice_eq p 63 63
@[simp] theorem extract_exponent_w64 (p : Nat) : (extract .w64 p).exponent = p / 2 ^ 56 % 2 ^ 7 := slice_eq p 62 56
@[simp] theorem extract_fraction_w64 (p : Nat) : (extract .w64 p).fraction = p % 2 ^ 56 :=
  (slice_eq p 55 0).trans (by simp)

theorem extract_fraction_lt (sw : Width) (p : Nat) : (extract sw p).fraction < 2 ^ fractionWidth sw := by
  cases sw
  · exact slice_lt p 23 0
  · exact slice_lt p 55 0

theorem extract_exponent_lt (sw : Width) (p : Nat) : (extract sw p).exponent < 2 ^ 7 := by
  cases sw
  · exact slice_lt p 30 24
  · exact slice_lt p 62 56

theorem extract_sign_lt (sw : Width) (p : Nat) : (extract sw p).sign < 2 := by
  cases sw
  · exact slice_lt p 31 31
  · exact slice_lt p 63 63

theorem placeSign_eq (dw : Width) (s : Nat) : placeSign dw s = s * 2 ^ (dw.bits - 1) := Nat.shiftLeft_eq s _

/-! ### Leading-zero count (R47) -/

/-- The fused count moves the top set bit of a nonzero fraction to bit W - 1. -/
theorem clz_spec {w v : Nat} (hv : v ≠ 0) (hw : v < 2 ^ w) :
    clz w v < w ∧ clz w v + (Nat.log2 v + 1) = w := by
  have h : Nat.log2 v < w := (Nat.log2_lt hv).2 hw
  rw [clz]
  omega

/-! ### Front end (R58) -/

theorem front_of_zero {sw : Width} (dw : Width) {p : Nat} (h : (extract sw p).fraction = 0) :
    front sw dw p = { sgn := placeSign dw (extract sw p).sign, zero := true, norm := 0, e := 0 } := by
  simp only [front]
  rw [if_pos h]

theorem front_of_ne_zero {sw : Width} (dw : Width) {p : Nat} (h : (extract sw p).fraction ≠ 0) :
    front sw dw p =
      { sgn := placeSign dw (extract sw p).sign
        zero := false
        norm := (extract sw p).fraction <<< clz (fractionWidth sw) (extract sw p).fraction
        e := workingExponent (extract sw p).exponent - clz (fractionWidth sw) (extract sw p).fraction
          + rebiasConstant dw } := by
  simp only [front]
  rw [if_neg h]

@[simp] theorem front_sgn (sw dw : Width) (p : Nat) : (front sw dw p).sgn = placeSign dw (extract sw p).sign := by
  simp only [front]
  split <;> rfl

theorem front_zero_iff (sw dw : Width) (p : Nat) : (front sw dw p).zero = true ↔ (extract sw p).fraction = 0 := by
  by_cases h : (extract sw p).fraction = 0
  · simp [front_of_zero dw h, h]
  · simp [front_of_ne_zero dw h, h]

/-! ### Range dispatch (R56), one lemma per reason to take a path -/

@[simp] theorem rangeDispatch_zero (dw : Width) (e : Int) : rangeDispatch dw true e = .zero := rfl

@[simp] theorem rangeDispatch_w64 (e : Int) : rangeDispatch .w64 false e = .normal := rfl

theorem rangeDispatch_w32_of_normal {e : Int} (h0 : 0 ≤ e) (h : e < 254) : rangeDispatch .w32 false e = .normal := by
  simp [rangeDispatch, overflowExponent, h0, h]

/-! ### Rounding unit (R51) -/

/-- Everything the rounding unit can answer: the truncated quotient, or one more. -/
theorem rneShr_cases (x n : Nat) : rneShr x n = x / 2 ^ n ∨ rneShr x n = x / 2 ^ n + 1 := by
  have hb : ∀ a b : Nat, (a &&& 1) &&& b = 0 ∨ (a &&& 1) &&& b = 1 := by
    intro a b
    have h : (a &&& 1) &&& b ≤ 1 := le_trans Nat.and_le_left Nat.and_le_right
    omega
  simp only [rneShr, ← Nat.shiftRight_eq_div_pow]
  rcases hb (x >>> (n - 1)) (((x >>> n) &&& 1) ||| (decide ((x &&& (2 ^ (n - 1) - 1)) ≠ 0)).toNat) with h | h
  · exact Or.inl (by rw [h]; rfl)
  · exact Or.inr (by rw [h])

/-! ### Assembler (R55) -/

theorem assembleNormal_lt (dw : Width) (sgn : Nat) (e : Int) (m : Nat) : assembleNormal dw sgn e m < 2 ^ dw.bits :=
  Nat.mod_lt _ (Nat.two_pow_pos _)

theorem assembleSubnormal_lt (dw : Width) (sgn m : Nat) : assembleSubnormal dw sgn m < 2 ^ dw.bits :=
  Nat.mod_lt _ (Nat.two_pow_pos _)

theorem assembleInfinity_lt (dw : Width) (sgn : Nat) : assembleInfinity dw sgn < 2 ^ dw.bits :=
  Nat.mod_lt _ (Nat.two_pow_pos _)

theorem infinityPattern_w32 : infinityPattern .w32 = 0x7F800000 := by decide

theorem infinityPattern_w64 : infinityPattern .w64 = 0x7FF0000000000000 := by decide

end Sys2Proof.Machine
end

