-- ==== Sys2Proof/Laws/State.lean ====
section
/-! SUPPORT. One lemma per port and per update of the ports, so that no later proof unfolds a record update. -/

namespace Sys2Proof.Machine

@[simp] theorem drive_op (s : State) (v : PortWord) : (s.drive v).op = s.op := rfl
@[simp] theorem drive_src (s : State) (v : PortWord) : (s.drive v).src = s.src := rfl
@[simp] theorem drive_result (s : State) (v : PortWord) : (s.drive v).result = some v := rfl
@[simp] theorem drive_drive (s : State) (v w : PortWord) : (s.drive v).drive w = s.drive w := rfl

@[simp] theorem present_op (s : State) (r : Request) : (s.present r).op = r.op := rfl
@[simp] theorem present_src (s : State) (r : Request) : (s.present r).src = r.src := rfl
@[simp] theorem present_result (s : State) (r : Request) : (s.present r).result = none := rfl
@[simp] theorem present_drive (s : State) (v : PortWord) (r : Request) : (s.drive v).present r = s.present r := rfl
@[simp] theorem present_present (s : State) (r q : Request) : (s.present r).present q = s.present q := rfl

@[simp] theorem presentOp_op (s : State) (op : OpSelect) : (s.presentOp op).op = op := rfl
@[simp] theorem presentOp_src (s : State) (op : OpSelect) : (s.presentOp op).src = s.src := rfl
@[simp] theorem presentOp_result (s : State) (op : OpSelect) : (s.presentOp op).result = none := rfl

@[simp] theorem sample_eq_result (s : State) : s.sample = s.result := rfl

@[simp] theorem withFetchWord_op (s : State) (nbits w : Nat) :
    (s.withFetchWord nbits w).op = opOfTableWord nbits w := rfl
@[simp] theorem withFetchWord_src (s : State) (nbits w : Nat) : (s.withFetchWord nbits w).src = s.src := rfl
@[simp] theorem withFetchWord_result (s : State) (nbits w : Nat) : (s.withFetchWord nbits w).result = none := rfl

theorem feedBack_of_some {s : State} {v : PortWord} (h : s.result = some v) (op : OpSelect) :
    s.feedBack op = s.present ⟨op, v⟩ := by
  simp [State.feedBack, h]

theorem feedBack_of_none {s : State} (h : s.result = none) (op : OpSelect) : s.feedBack op = s := by
  simp [State.feedBack, h]

@[simp] theorem reset_op : State.reset.op = 0#2 := rfl
@[simp] theorem reset_src : State.reset.src = 0#64 := rfl
@[simp] theorem reset_result : State.reset.result = some 0#64 := rfl

end Sys2Proof.Machine
end

