-- ==== Sys2Proof/Laws/Ops.lean ====
section
/-! SUPPORT. What the dispatch and the requester's operations can do, once: later proofs cite these lemmas and unfold
no meaning. -/

namespace Sys2Proof.Machine

/-! ### The meanings: each answers a next state in which only the result has changed -/

theorem exec_ibm32ieee32 (s : State) :
    exec .ibm32ieee32 s = .next (s.drive (zext64 (convIbm32Ieee32 (operand32 s.src)))) := rfl

theorem exec_ibm32ieee64 (s : State) :
    exec .ibm32ieee64 s = .next (s.drive (convIbm32Ieee64 (operand32 s.src))) := rfl

theorem exec_ibm64ieee32 (s : State) :
    exec .ibm64ieee32 s = .next (s.drive (zext64 (convIbm64Ieee32 (operand64 s.src)))) := rfl

theorem exec_ibm64ieee64 (s : State) :
    exec .ibm64ieee64 s = .next (s.drive (convIbm64Ieee64 (operand64 s.src))) := rfl

/-- Everything `exec` can do: it drives one value, found from `src` alone. -/
theorem exec_drives (i : Instr) : ∃ value : PortWord → PortWord, ∀ s, exec i s = .next (s.drive (value s.src)) := by
  cases i
  · exact ⟨fun src => zext64 (convIbm32Ieee32 (operand32 src)), exec_ibm32ieee32⟩
  · exact ⟨fun src => convIbm32Ieee64 (operand32 src), exec_ibm32ieee64⟩
  · exact ⟨fun src => zext64 (convIbm64Ieee32 (operand64 src)), exec_ibm64ieee32⟩
  · exact ⟨fun src => convIbm64Ieee64 (operand64 src), exec_ibm64ieee64⟩

/-- If `exec` answers a next state, the input ports are as they were. -/
theorem exec_frame {i : Instr} {s t : State} (h : exec i s = .next t) : t.op = s.op ∧ t.src = s.src := by
  obtain ⟨value, hv⟩ := exec_drives i
  rw [hv] at h
  cases h
  exact ⟨rfl, rfl⟩

/-! ### Operand and result placement -/

@[simp] theorem operand32_toNat (src : PortWord) : (operand32 src).toNat = src.toNat % 2 ^ 32 := by
  simp [operand32]

@[simp] theorem operand64_eq (src : PortWord) : operand64 src = src := rfl

@[simp] theorem zext64_toNat (r : BitVec 32) : (zext64 r).toNat = r.toNat := by
  have := r.isLt
  simp [zext64]
  omega

/-! ### Register stages -/

@[simp] theorem shiftIn_nil {α : Type} (x : α) : shiftIn x [] = (x, []) := rfl

@[simp] theorem shiftIn_cons {α : Type} (x y : α) (ys : List α) :
    shiftIn x (y :: ys) = ((shiftIn y ys).1, x :: (shiftIn y ys).2) := rfl

end Sys2Proof.Machine
end

