-- ==== Sys2Proof/Laws/PerInstr.lean ====
section
/-! SUPPORT. The statements made per instruction: the family OpRoundTrip, one lemma per constructor of Instr. -/

namespace Sys2Proof.Laws

/-- An operation's encoding decodes to it (R27, R28). -/
def OpRoundTrip.Statement (i : Instr) : Prop := decodeOp (encodeOp i) = i

theorem OpRoundTrip.ibm32ieee32 : OpRoundTrip.Statement .ibm32ieee32 := rfl
theorem OpRoundTrip.ibm32ieee64 : OpRoundTrip.Statement .ibm32ieee64 := rfl
theorem OpRoundTrip.ibm64ieee32 : OpRoundTrip.Statement .ibm64ieee32 := rfl
theorem OpRoundTrip.ibm64ieee64 : OpRoundTrip.Statement .ibm64ieee64 := rfl

end Sys2Proof.Laws
end

