-- ==== Sys2Proof/Tests/Slice0.lean ====
section
/-! SUPPORT. Tests: ill-formed terms refused, words and lines decoded, one step per vector of spec/95_test_vectors.md, and
for every statement with hypotheses a witness that meets them together. -/

namespace Sys2Proof.Tests

open Sys2Proof.Machine

/-! ### Well-formedness: each check refuses a term -/

theorem test_source_too_wide_refused : TraceLine.wellFormed ⟨.ibm32ieee64, 2 ^ 32, none⟩ = false := by decide
theorem test_expected_too_wide_refused : TraceLine.wellFormed ⟨.ibm64ieee32, 0, some (2 ^ 32)⟩ = false := by decide
theorem test_no_register_stage_refused : PipeConfig.wellFormed ⟨0, 0⟩ = false := by decide
theorem test_one_register_stage_accepted : PipeConfig.wellFormed ⟨0, 1⟩ = true := by decide

/-! ### Decoding: the words of spec/opcode_table.json bit by bit -/

theorem test_word_00 : decodeOp 0b00#2 = .ibm32ieee32 := by decide
theorem test_word_01 : decodeOp 0b01#2 = .ibm32ieee64 := by decide
theorem test_word_10 : decodeOp 0b10#2 = .ibm64ieee32 := by decide
theorem test_word_11 : decodeOp 0b11#2 = .ibm64ieee64 := by decide
theorem test_no_bytes_refused : decodeBytes [] = .error .noOperationSelect := by rfl
theorem test_byte_10_decodes : decodeBytes [0b00000010#8] = .ok .ibm64ieee32 := by rfl

/-! ### Trace lines (R41): the first line of program P1, letters in any case; each rejection by name -/

theorem test_line_parses :
    parseTraceLine
      ['i', 'b', 'm', '3', '2', 'I', 'E', 'E', 'E', '3', '2', ' ', '0', 'x', '4', '1', '1', '0', '0', '0', '0', '0',
        ' ', ' ', ';', ' ', '-', '>', ' ', '0', 'x', '3', 'F', '8', '0', '0', '0', '0', '0']
      = .ok ⟨.ibm32ieee32, 0x41100000, some 0x3F800000⟩ := by rfl

theorem test_line_expectation_holds : expectationHolds ⟨.ibm32ieee32, 0x41100000, some 0x3F800000⟩ = true := by decide
theorem test_line_expectation_fails : expectationHolds ⟨.ibm32ieee32, 0x41100000, some 0x3F800001⟩ = false := by decide
theorem test_empty_line_refused : parseTraceLine [] = .error .badShape := by rfl
theorem test_unknown_mnemonic_refused : parseTraceLine ['A', ' ', '0', 'x', '0'] = .error .unknownMnemonic := by rfl
theorem test_short_literal_refused : parseLiteral .w32 ['0', 'x', '0'] = .error .wrongDigitCount := by rfl
theorem test_bare_literal_refused : parseLiteral .w32 ['4', '1', '1', '0', '0', '0', '0', '0'] = .error .badLiteral := by
  rfl
theorem test_bad_digit_refused :
    parseLiteral .w32 ['0', 'x', '4', '1', '1', '0', '0', '0', '0', 'G'] = .error .badDigit := by rfl

/-! ### One step each: vectors of spec/95_test_vectors.md -/

/-- The state in which a requester has presented an operation. -/
def presented (op : OpSelect) (src : PortWord) : State := State.reset.present ⟨op, src⟩

/-- The sample after one step. -/
def stepSample (s : State) : Option PortWord :=
  match step s with
  | .next t => t.sample
  | .fault _ => none
  | .refused _ => none

/-- A-28: a subnormal tie with odd parity; the high half of the port is ignored (the extra check for D3). -/
theorem test_ibm32ieee32_subnormal_tie :
    stepSample (presented 0b00#2 0xFFFFFFFF1C1C0000#64) = some 0x00000004#64 := by decide
/-- A-16: a negative overflow. -/
theorem test_ibm32ieee32_overflow : stepSample (presented 0b00#2 0xFFFFFFFF#64) = some 0xFF800000#64 := by decide
/-- C-12: the smallest magnitude, negative, unnormalised. -/
theorem test_ibm32ieee64_smallest : stepSample (presented 0b01#2 0x80000001#64) = some 0xAE70000000000000#64 := by decide
/-- C-07: -118.625. -/
theorem test_ibm32ieee64_normal : stepSample (presented 0b01#2 0xC276A000#64) = some 0xC05DA80000000000#64 := by decide
/-- B-13 with the sign set, the second line of program P3: the rounding carry into infinity. -/
theorem test_ibm64ieee32_carry_to_infinity :
    stepSample (presented 0b10#2 0xE0FFFFFF80000000#64) = some 0xFF800000#64 := by decide
/-- B-25: just above 2^-150 gives the smallest subnormal. -/
theorem test_ibm64ieee32_above_underflow :
    stepSample (presented 0b10#2 0x1B40000000000001#64) = some 0x00000001#64 := by decide
/-- D-07: a tie with odd parity. -/
theorem test_ibm64ieee64_tie : stepSample (presented 0b11#2 0x418000000000000C#64) = some 0x4020000000000002#64 := by decide
/-- D-16: the largest magnitude, negative, carries to 2^252. -/
theorem test_ibm64ieee64_carry :
    stepSample (presented 0b11#2 0xFFFFFFFFFFFFFFFF#64) = some 0xCFB0000000000000#64 := by decide

/-! ### Sub-block vectors: R-20 and R-13 of spec/95_test_vectors.md part 3.2, in both forms of the rounding unit -/

theorem test_rounding_unit_tie_up : rneShr 0x18000000000000000 64 = 2 ∧ rneShrMask 0x18000000000000000 64 = 2 := by decide
theorem test_rounding_unit_down : rneShr 0x17FFFFFFF 32 = 1 ∧ rneShrMask 0x17FFFFFFF 32 = 1 := by decide
/-- Part 3.1: F = 1 takes the most turns, 13, and L = 55. -/
theorem test_normaliser_most_turns : (normaliseDigits .w64 1 0).digits = 13 ∧ clz 56 1 = 55 := by decide

/-! ### A registered implementation shows nothing before its first operation completes -/

theorem test_registered_two_stages :
    (Registered.powerUp ⟨1, 1⟩).outputs [some ⟨0b00#2, 0x41100000#64⟩, none, none] =
      [none, none, some 0x3F800000#64] := by decide

/-! ### Witnesses: the hypotheses of the statements can be met, each clause at an end of its range -/

theorem witness_TraceLineReadsBackAsPrinted :
    TraceLine.wellFormed ⟨.ibm32ieee32, 2 ^ 32 - 1, some (2 ^ 32 - 1)⟩ = true ∧
    TraceLine.wellFormed ⟨.ibm64ieee64, 2 ^ 64 - 1, none⟩ = true ∧
    TraceLine.wellFormed ⟨.ibm32ieee64, 0, some (2 ^ 64 - 1)⟩ = true := by decide

theorem witness_TraceLineEncodesAndRuns :
    TraceLine.wellFormed ⟨.ibm32ieee32, 2 ^ 32 - 1, none⟩ = true ∧
    (Instr.ibm32ieee32).sourceWidth = .w32 := by decide

theorem witness_StepRunsTheDecodedOperation : decodeOp (presented 0b10#2 1#64).op = .ibm64ieee32 := by decide

theorem witness_PlacedTableWordRunsNext : decodeTableWord 8 3 = some .ibm64ieee64 := by decide

theorem witness_ResultIgnoresEarlierOperations :
    (presented 0b00#2 5#64).src = ((presented 0b11#2 5#64).drive 9#64).src ∧
    presented 0b00#2 5#64 ≠ (presented 0b11#2 5#64).drive 9#64 := by decide

theorem witness_RepeatedOperationIsIdempotent :
    step (presented 0b00#2 0x41100000#64) = .next ((presented 0b00#2 0x41100000#64).drive 0x3F800000#64) := rfl

theorem witness_ResultFedBackNeedsNoWait :
    step (presented 0b01#2 0x41100000#64) = .next ((presented 0b01#2 0x41100000#64).drive 0x3FF0000000000000#64) := rfl

theorem witness_StepKeepsPortInvariant :
    PortInvariant ((presented 0b00#2 0x41100000#64).drive 0x3F800000#64) ∧
    step ((presented 0b00#2 0x41100000#64).drive 0x3F800000#64) =
      .next ((presented 0b00#2 0x41100000#64).drive 0x3F800000#64) := by
  refine ⟨⟨?_, ?_⟩, rfl⟩ <;> (intro v h; cases h)
  · decide
  · exact ⟨by decide, by decide⟩

theorem witness_OperandAssembly :
    (0b01#2 : OpSelect).getLsbD 1 = false ∧
    (0xFFFFFFFF41100000#64 : PortWord).toNat % 2 ^ 32 = (0x41100000#64 : PortWord).toNat % 2 ^ 32 := by decide

theorem witness_ZeroFractionGivesSignedZero :
    (0xFF000000#64 : PortWord).toNat % 2 ^ 24 = 0 ∧ (0xFF00000000000000#64 : PortWord).toNat % 2 ^ 56 = 0 := by decide

theorem witness_EveryResultIsLegal :
    (0b10#2 : OpSelect).getLsbD 0 = false ∧
    ieeeClass .w32 (convert 0b10#2 0x60FFFFFF80000000#64).toNat = .infinity := by decide

theorem witness_DigitNormaliserRemovesLeadingZeroDigits :
    0 < 1 ∧ 1 < 2 ^ fractionWidth .w32 ∧ 0 < 2 ^ 56 - 1 ∧ 2 ^ 56 - 1 < 2 ^ fractionWidth .w64 := by decide

theorem witness_TopDigitLookupCountsLeadingZeros : 1 ≤ 1 ∧ 1 ≤ 15 ∧ 15 ≤ 15 := by decide

theorem witness_FusedLeadingZeroCountMatchesStaged :
    0 < 2 ^ 24 - 1 ∧ 2 ^ 24 - 1 < 2 ^ fractionWidth .w32 ∧ 0 < 1 ∧ 1 < 2 ^ fractionWidth .w64 := by decide

theorem witness_RebiasAdderForms :
    (extract .w32 1).fraction ≠ 0 ∧ (extract .w64 0xFFFFFFFFFFFFFFFF).fraction ≠ 0 := by decide

theorem witness_RebiasValueIdentity :
    (extract .w32 0x41100000).fraction ≠ 0 ∧ (extract .w64 1).fraction ≠ 0 := by decide

theorem witness_ComputedExponentRanges :
    (extract .w32 0x7F800000).fraction ≠ 0 ∧ (extract .w32 0x7F800000).exponent = 127 ∧
    0x800000 ≤ (extract .w32 0x7F800000).fraction ∧
    (extract .w64 0x7F80000000000000).fraction ≠ 0 ∧ (extract .w64 0x7F80000000000000).exponent = 127 ∧
    2 ^ 55 ≤ (extract .w64 0x7F80000000000000).fraction := by decide

theorem witness_RoundingUnitBitRule :
    (Nat.testBit 3 (1 - 1) = true ∧ (Nat.testBit 3 1 = true ∨ ∃ j, j < 1 - 1 ∧ Nat.testBit 3 j = true)) ∧
    (Nat.testBit 3 (2 - 1) = true ∧ (Nat.testBit 3 2 = true ∨ ∃ j, j < 2 - 1 ∧ Nat.testBit 3 j = true)) ∧
    ¬(Nat.testBit 2 (2 - 1) = true ∧ (Nat.testBit 2 2 = true ∨ ∃ j, j < 2 - 1 ∧ Nat.testBit 2 j = true)) := by
  refine ⟨⟨by decide, Or.inl (by decide)⟩, ⟨by decide, Or.inr ⟨0, by decide⟩⟩, by decide⟩

theorem witness_RoundingMaskFormEqualsBitForm : 1 ≤ 1 ∧ rneShr 0xB 1 = 6 := by decide

theorem witness_RoundingUnitIsNearestEven : 1 ≤ 1 ∧ 7 / 2 ^ 1 = 2 ^ 2 - 1 ∧ rneShr 7 1 ≠ 7 / 2 ^ 1 := by decide

theorem witness_AssemblerFields :
    (1 ≤ 1 ∧ (0 : Int) ≤ 0 ∧ (0 : Int) ≤ 253 ∧ 2 ^ significandWidth .w32 ≤ 2 ^ 23 ∧
      2 ^ 23 ≤ 2 ^ (significandWidth .w32 + 1)) ∧
    (0 ≤ 1 ∧ (0 : Int) ≤ 1273 ∧ (1273 : Int) ≤ 1273 ∧ 2 ^ significandWidth .w64 ≤ 2 ^ 53 ∧
      2 ^ 53 ≤ 2 ^ (significandWidth .w64 + 1)) ∧
    2 ^ 23 ≤ 2 ^ 23 := by decide

theorem witness_Ibm32Ieee32NormalPathExact :
    ((front .w32 .w32 0x21400000).zero = false ∧ 0 ≤ (front .w32 .w32 0x21400000).e ∧
      (front .w32 .w32 0x21400000).e < 254) ∧
    ((front .w32 .w32 0x60FFFFFF).zero = false ∧ 0 ≤ (front .w32 .w32 0x60FFFFFF).e ∧
      (front .w32 .w32 0x60FFFFFF).e < 254) := by decide

theorem witness_Ibm32Ieee32OverflowsFromTwoPow128 :
    (2 : ℚ) ^ 128 ≤ ibmMagnitude .w32 0x61100000 ∧ ibmMagnitude .w32 0x60FFFFFF < 2 ^ 128 := by
  constructor <;> norm_num [ibmMagnitude, fractionWidth, Width.bits]

theorem witness_Ibm64Ieee32NormalPathCarry :
    ((front .w64 .w32 0x41FFFFFF80000000).zero = false ∧ 0 ≤ (front .w64 .w32 0x41FFFFFF80000000).e ∧
      (front .w64 .w32 0x41FFFFFF80000000).e < 254 ∧ rneShr (front .w64 .w32 0x41FFFFFF80000000).norm 32 = 2 ^ 24) ∧
    ((front .w64 .w32 0x60FFFFFF7FFFFFFF).zero = false ∧ 0 ≤ (front .w64 .w32 0x60FFFFFF7FFFFFFF).e ∧
      (front .w64 .w32 0x60FFFFFF7FFFFFFF).e < 254 ∧
      rneShr (front .w64 .w32 0x60FFFFFF7FFFFFFF).norm 32 < 2 ^ 24) := by decide

theorem witness_Ibm64Ieee32OverflowsFromMidpoint :
    (((2 : ℚ) - 1 / 2 ^ 24) * 2 ^ 127 ≤ ibmMagnitude .w64 0x60FFFFFF80000000 ∧
      ibmMagnitude .w64 0x60FFFFFF80000000 < 2 ^ 128) ∧
    (((2 : ℚ) - 1 / 2 ^ 23) * 2 ^ 127 < ibmMagnitude .w64 0x60FFFFFF00000001 ∧
      ibmMagnitude .w64 0x60FFFFFF00000001 < (2 - 1 / 2 ^ 24) * 2 ^ 127) := by
  refine ⟨⟨?_, ?_⟩, ?_, ?_⟩ <;> norm_num [ibmMagnitude, fractionWidth, Width.bits]

theorem witness_SubnormalPathRoundsToNearestEven :
    ((front .w32 .w32 0x213FFFFF).zero = false ∧ -32 ≤ (front .w32 .w32 0x213FFFFF).e ∧
      (front .w32 .w32 0x213FFFFF).e < 0) ∧
    ((front .w32 .w32 0x19400000).zero = false ∧ -32 ≤ (front .w32 .w32 0x19400000).e ∧
      (front .w32 .w32 0x19400000).e ≤ -25) ∧
    ((front .w64 .w32 0x1940000000000000).zero = false ∧ -32 ≤ (front .w64 .w32 0x1940000000000000).e ∧
      (front .w64 .w32 0x1940000000000000).e < 0) ∧
    ((front .w64 .w32 0x213FFFFFFFFFFFFF).zero = false ∧ -32 ≤ (front .w64 .w32 0x213FFFFFFFFFFFFF).e ∧
      (front .w64 .w32 0x213FFFFFFFFFFFFF).e < 0) := by decide

theorem witness_SubnormalCarryIntoNormalRange :
    ((front .w64 .w32 0x213FFFFFC0000000).zero = false ∧ (front .w64 .w32 0x213FFFFFC0000000).e = -1 ∧
      2 ^ 56 - 2 ^ 32 ≤ (front .w64 .w32 0x213FFFFFC0000000).norm) ∧
    ((front .w32 .w32 0x213FFFFF).zero = false ∧ (front .w32 .w32 0x213FFFFF).e = -1) := by decide

theorem witness_UnderflowToSignedZero :
    ((front .w32 .w32 0x19200000).zero = false ∧ (front .w32 .w32 0x19200000).e < -32) ∧
    ibmMagnitude .w32 0x1B400000 ≤ (2 : ℚ) ^ (-150 : ℤ) ∧
    ((2 : ℚ) ^ (-150 : ℤ) < ibmMagnitude .w32 0x1B800000 ∧ ibmMagnitude .w32 0x1B800000 ≤ (2 : ℚ) ^ (-149 : ℤ)) ∧
    ((front .w64 .w32 0x1920000000000000).zero = false ∧ (front .w64 .w32 0x1920000000000000).e < -32) ∧
    ibmMagnitude .w64 0x1B40000000000000 ≤ (2 : ℚ) ^ (-150 : ℤ) ∧
    ((2 : ℚ) ^ (-150 : ℤ) < ibmMagnitude .w64 0x1B80000000000000 ∧
      ibmMagnitude .w64 0x1B80000000000000 ≤ (2 : ℚ) ^ (-149 : ℤ)) := by
  refine ⟨by decide, ?_, ⟨?_, ?_⟩, by decide, ?_, ?_, ?_⟩ <;> norm_num [ibmMagnitude, fractionWidth, Width.bits]

theorem witness_ToIeee32Monotone :
    ibmMagnitude .w32 0x41100000 ≤ ibmMagnitude .w32 0xC1200000 ∧
    ibmMagnitude .w64 0x4110000000000000 ≤ ibmMagnitude .w64 0xC120000000000000 := by
  constructor <;> norm_num [ibmMagnitude, fractionWidth, Width.bits]

theorem witness_ToIeee64Monotone :
    ibmMagnitude .w32 0x00000001 ≤ ibmMagnitude .w32 0x7FFFFFFF ∧
    ibmMagnitude .w64 0x0000000000000001 ≤ ibmMagnitude .w64 0x7FFFFFFFFFFFFFFF := by
  constructor <;> norm_num [ibmMagnitude, fractionWidth, Width.bits]

theorem witness_Ibm32Ieee64WideningExact :
    (front .w32 .w64 0x00000001).zero = false ∧ (front .w32 .w64 0x7FFFFFFF).zero = false := by decide

theorem witness_Ibm32Ieee64AlwaysNormal : (front .w32 .w64 0x80000001).zero = false := by decide

theorem witness_Ibm64Ieee64RoundingCarry :
    ((front .w64 .w64 0x41FFFFFFFFFFFFFC).zero = false ∧ rneShr (front .w64 .w64 0x41FFFFFFFFFFFFFC).norm 3 = 2 ^ 53) ∧
    ((front .w64 .w64 0x41FFFFFFFFFFFFFB).zero = false ∧
      rneShr (front .w64 .w64 0x41FFFFFFFFFFFFFB).norm 3 < 2 ^ 53) := by decide

theorem witness_Ibm64Ieee64AlwaysNormal : (front .w64 .w64 0x8000000000000001).zero = false := by decide

theorem witness_ResultDependsOnValueAndSign :
    ((extract .w32 0x41100000).sign = (extract .w32 0x42010000).sign ∧
      ibmValue .w32 0x41100000 = ibmValue .w32 0x42010000) ∧
    ((extract .w64 0xC110000000000000).sign = (extract .w64 0xC201000000000000).sign ∧
      ibmValue .w64 0xC110000000000000 = ibmValue .w64 0xC201000000000000) := by
  refine ⟨⟨by decide, ?_⟩, by decide, ?_⟩ <;> norm_num [ibmValue, ibmMagnitude, fractionWidth, Width.bits]

end Sys2Proof.Tests
end

/-! ## The step and the ports (spec/10_state.md)

Fields and classes of IEEE patterns, bounds of each block of the datapath, legality of every result, and from these the
statements about the step. -/

namespace Sys2Proof.Machine

/-! ### IEEE patterns: fields and class are functions of the magnitude bits (R34 to R37) -/

theorem ieeeMagnitudeBits_lt (dw : Width) (r : Nat) : ieeeMagnitudeBits dw r < 2 ^ (dw.bits - 1) :=
  Nat.mod_lt _ (Nat.two_pow_pos _)

theorem ieeeExponent_eq_div (dw : Width) (r : Nat) :
    ieeeExponent dw r = ieeeMagnitudeBits dw r / 2 ^ significandWidth dw := by
  rw [ieeeExponent, slice_eq]
  cases dw <;> simp only [ieeeMagnitudeBits, significandWidth, Width.bits] <;> omega

theorem ieeeSignificand_eq_mod (dw : Width) (r : Nat) :
    ieeeSignificand dw r = ieeeMagnitudeBits dw r % 2 ^ significandWidth dw := by
  rw [ieeeSignificand, slice_eq]
  cases dw <;> simp only [ieeeMagnitudeBits, significandWidth, Width.bits] <;> omega

theorem infinityPattern_eq (dw : Width) :
    infinityPattern dw = (2 ^ exponentWidth dw - 1) * 2 ^ significandWidth dw := Nat.shiftLeft_eq _ _

/-- The exponent field is all ones exactly from the infinity pattern on. -/
theorem div_significand_eq_iff {dw : Width} {m : Nat} (hm : m < 2 ^ (dw.bits - 1)) :
    m / 2 ^ significandWidth dw = 2 ^ exponentWidth dw - 1 ↔ infinityPattern dw ≤ m := by
  rw [infinityPattern_eq]
  cases dw <;> simp only [significandWidth, exponentWidth, Width.bits] at hm ⊢ <;> omega

/-- At and above infinity the significand field is zero at infinity alone. -/
theorem mod_significand_eq_zero_iff {dw : Width} {m : Nat} (hm : m < 2 ^ (dw.bits - 1))
    (hinf : infinityPattern dw ≤ m) : m % 2 ^ significandWidth dw = 0 ↔ m = infinityPattern dw := by
  rw [infinityPattern_eq] at hinf ⊢
  cases dw <;> simp only [significandWidth, exponentWidth, Width.bits] at hm hinf ⊢ <;> omega

theorem two_pow_significandWidth_le_infinityPattern (dw : Width) : 2 ^ significandWidth dw ≤ infinityPattern dw := by
  cases dw <;> decide

/-- The kinds of patterns follow each other as the magnitude bits grow (R36, R37). -/
theorem ieeeClass_eq (dw : Width) (r : Nat) :
    ieeeClass dw r =
      if ieeeMagnitudeBits dw r = 0 then .zero
      else if ieeeMagnitudeBits dw r < 2 ^ significandWidth dw then .subnormal
      else if ieeeMagnitudeBits dw r < infinityPattern dw then .normal
      else if ieeeMagnitudeBits dw r = infinityPattern dw then .infinity
      else .nan := by
  have hlt := ieeeMagnitudeBits_lt dw r
  have hpos := Nat.two_pow_pos (significandWidth dw)
  have hle := two_pow_significandWidth_le_infinityPattern dw
  rw [ieeeClass, ieeeExponent_eq_div, ieeeSignificand_eq_mod]
  generalize ieeeMagnitudeBits dw r = m at hlt ⊢
  by_cases hinf : infinityPattern dw ≤ m
  · have h0 : m ≠ 0 := by omega
    have hsub : ¬m < 2 ^ significandWidth dw := by omega
    simp [div_significand_eq_iff hlt, mod_significand_eq_zero_iff hlt hinf, hinf, h0, hsub, hinf.not_gt]
  · have hexp := (div_significand_eq_iff hlt).not.2 hinf
    by_cases hsub : m < 2 ^ significandWidth dw
    · rw [if_neg hexp, Nat.div_eq_of_lt hsub, Nat.mod_eq_of_lt hsub]
      simp [hsub]
    · have h0 : m ≠ 0 := by omega
      have hdiv : m / 2 ^ significandWidth dw ≠ 0 := (Nat.div_pos (not_lt.1 hsub) hpos).ne'
      simp [hexp, hdiv, h0, hsub, not_le.1 hinf]

/-- The NaNs are the patterns above infinity. -/
theorem ieeeClass_ne_nan_iff (dw : Width) (r : Nat) :
    ieeeClass dw r ≠ .nan ↔ ieeeMagnitudeBits dw r ≤ infinityPattern dw := by
  have hle := two_pow_significandWidth_le_infinityPattern dw
  rw [ieeeClass_eq]
  split_ifs <;> simp <;> omega

theorem ieeeClass_eq_zero_iff (dw : Width) (r : Nat) : ieeeClass dw r = .zero ↔ ieeeMagnitudeBits dw r = 0 := by
  have hpos := Nat.two_pow_pos (significandWidth dw)
  have hle := two_pow_significandWidth_le_infinityPattern dw
  rw [ieeeClass_eq]
  split_ifs <;> simp <;> omega

/-- The normal numbers stand between the smallest one and infinity. -/
theorem ieeeClass_eq_normal_iff (dw : Width) (r : Nat) :
    ieeeClass dw r = .normal ↔
      2 ^ significandWidth dw ≤ ieeeMagnitudeBits dw r ∧ ieeeMagnitudeBits dw r < infinityPattern dw := by
  have hpos := Nat.two_pow_pos (significandWidth dw)
  rw [ieeeClass_eq]
  split_ifs <;> simp <;> omega

/-! ### Magnitude bits of what the assembler builds (R55): the placed sign never reaches them -/

@[simp] theorem ieeeMagnitudeBits_mod (dw : Width) (r : Nat) :
    ieeeMagnitudeBits dw (r % 2 ^ dw.bits) = ieeeMagnitudeBits dw r :=
  Nat.mod_mod_of_dvd r (Nat.pow_dvd_pow 2 (Nat.sub_le _ _))

@[simp] theorem ieeeMagnitudeBits_placeSign_add (dw : Width) (b m : Nat) :
    ieeeMagnitudeBits dw (placeSign dw b + m) = m % 2 ^ (dw.bits - 1) := by
  rw [ieeeMagnitudeBits, placeSign_eq, Nat.mul_add_mod_self_right]

@[simp] theorem ieeeMagnitudeBits_placeSign (dw : Width) (b : Nat) : ieeeMagnitudeBits dw (placeSign dw b) = 0 := by
  simpa using ieeeMagnitudeBits_placeSign_add dw b 0

@[simp] theorem ieeeMagnitudeBits_assembleNormal (dw : Width) (b : Nat) (e : Int) (m : Nat) :
    ieeeMagnitudeBits dw (assembleNormal dw (placeSign dw b) e m) =
      (e.toNat * 2 ^ significandWidth dw + m) % 2 ^ (dw.bits - 1) := by
  rw [assembleNormal, ieeeMagnitudeBits_mod, Nat.add_assoc, ieeeMagnitudeBits_placeSign_add, Nat.shiftLeft_eq]

@[simp] theorem ieeeMagnitudeBits_assembleSubnormal (dw : Width) (b m : Nat) :
    ieeeMagnitudeBits dw (assembleSubnormal dw (placeSign dw b) m) = m % 2 ^ (dw.bits - 1) := by
  rw [assembleSubnormal, ieeeMagnitudeBits_mod, ieeeMagnitudeBits_placeSign_add]

@[simp] theorem ieeeMagnitudeBits_assembleInfinity (dw : Width) (b : Nat) :
    ieeeMagnitudeBits dw (assembleInfinity dw (placeSign dw b)) = infinityPattern dw := by
  rw [assembleInfinity, ieeeMagnitudeBits_mod, ieeeMagnitudeBits_placeSign_add]
  cases dw <;> rfl

/-! ### Bounds of the front end and of the rounding unit (R47, R48, R50, R53) -/

/-- The leading-zero count of a nonzero fraction brings its top bit to bit WF - 1 (R47). -/
theorem front_norm_bounds {sw : Width} (dw : Width) {p : Nat} (h : (extract sw p).fraction ≠ 0) :
    2 ^ (fractionWidth sw - 1) ≤ (front sw dw p).norm ∧ (front sw dw p).norm < 2 ^ fractionWidth sw := by
  obtain ⟨-, hsum⟩ := clz_spec h (extract_fraction_lt sw p)
  rw [front_of_ne_zero dw h]
  generalize (extract sw p).fraction = f at h hsum ⊢
  simp only [Nat.shiftLeft_eq]
  generalize clz (fractionWidth sw) f = l at hsum ⊢
  constructor
  · calc 2 ^ (fractionWidth sw - 1) = 2 ^ f.log2 * 2 ^ l := by rw [← pow_add]; congr 1; omega
      _ ≤ f * 2 ^ l := Nat.mul_le_mul_right _ (Nat.log2_self_le h)
  · calc f * 2 ^ l < 2 ^ (f.log2 + 1) * 2 ^ l := Nat.mul_lt_mul_of_pos_right Nat.lt_log2_self (Nat.two_pow_pos l)
      _ = 2 ^ fractionWidth sw := by rw [← pow_add]; congr 1; omega

/-- The computed exponent is 4 E + K less at most WF - 1 leading zeros, with E < 128 (R48, R50). -/
theorem front_e_bounds {sw : Width} (dw : Width) {p : Nat} (h : (extract sw p).fraction ≠ 0) :
    rebiasConstant dw - (fractionWidth sw - 1) ≤ (front sw dw p).e ∧ (front sw dw p).e ≤ rebiasConstant dw + 508 := by
  obtain ⟨hclz, -⟩ := clz_spec h (extract_fraction_lt sw p)
  have hE := extract_exponent_lt sw p
  rw [front_of_ne_zero dw h]
  simp only [workingExponent]
  omega

theorem extract_fraction_ne_zero_of_front {sw dw : Width} {p : Nat} (hz : (front sw dw p).zero = false) :
    (extract sw p).fraction ≠ 0 := by
  rw [Ne, ← front_zero_iff sw dw, hz]
  exact Bool.false_ne_true

/-- Rounding away n of at most n + j bits leaves j bits or their carry (R53). -/
theorem rneShr_le_two_pow {x n j w : Nat} (h : x < 2 ^ w) (hw : w ≤ n + j) : rneShr x n ≤ 2 ^ j := by
  have hdiv : x / 2 ^ n < 2 ^ j :=
    Nat.div_lt_of_lt_mul (by rw [← pow_add]; exact h.trans_le (Nat.pow_le_pow_right two_pos hw))
  rcases rneShr_cases x n with hr | hr <;> omega

theorem two_pow_le_rneShr {x n j : Nat} (h : 2 ^ (n + j) ≤ x) : 2 ^ j ≤ rneShr x n := by
  have hdiv : 2 ^ j ≤ x / 2 ^ n := (Nat.le_div_iff_mul_le (Nat.two_pow_pos n)).2 (by rwa [Nat.add_comm, pow_add] at h)
  rcases rneShr_cases x n with hr | hr <;> omega

/-! ### Range dispatch to a 32-bit destination (R56), the other reasons to take a path -/

theorem rangeDispatch_w32_of_overflow {e : Int} (h : 254 ≤ e) : rangeDispatch .w32 false e = .overflow := by
  have hnormal : ¬(0 ≤ e ∧ e < 254) := by omega
  simp [rangeDispatch, overflowExponent, hnormal, h]

theorem rangeDispatch_w32_of_subnormal {e : Int} (h : -32 ≤ e) (h0 : e < 0) :
    rangeDispatch .w32 false e = .subnormal := by
  have hoverflow : ¬254 ≤ e := by omega
  simp [rangeDispatch, overflowExponent, subnormalFloor, h, h0.not_ge, hoverflow]

theorem rangeDispatch_w32_of_underflow {e : Int} (h : e < -32) : rangeDispatch .w32 false e = .underflow := by
  have h0 : ¬0 ≤ e := by omega
  have hoverflow : ¬254 ≤ e := by omega
  simp [rangeDispatch, overflowExponent, subnormalFloor, h.not_ge, h0, hoverflow]

/-! ### The four conversions as paths over one front end (R59, R62, R69, R72) -/

/-- The five paths to a 32-bit destination, for the significand of the normal path and that of the subnormal path. -/
def pathResult32 (f : FrontEnd) (mNormal mSubnormal : Nat) : Nat :=
  match rangeDispatch .w32 f.zero f.e with
  | .zero => f.sgn
  | .normal => assembleNormal .w32 f.sgn f.e mNormal
  | .overflow => assembleInfinity .w32 f.sgn
  | .subnormal => assembleSubnormal .w32 f.sgn mSubnormal
  | .underflow => f.sgn

/-- The two paths to a 64-bit destination. -/
def pathResult64 (f : FrontEnd) (m : Nat) : Nat :=
  if f.zero then f.sgn else assembleNormal .w64 f.sgn f.e m

theorem convIbm32Ieee32_eq (p : BitVec 32) :
    convIbm32Ieee32 p = BitVec.ofNat 32 (pathResult32 (front .w32 .w32 p.toNat) (front .w32 .w32 p.toNat).norm
      (rneShr (front .w32 .w32 p.toNat).norm (-(front .w32 .w32 p.toNat).e).toNat)) := rfl

theorem convIbm64Ieee32_eq (p : BitVec 64) :
    convIbm64Ieee32 p = BitVec.ofNat 32 (pathResult32 (front .w64 .w32 p.toNat)
      (rneShr (front .w64 .w32 p.toNat).norm 32)
      (rneShr (front .w64 .w32 p.toNat).norm (32 - (front .w64 .w32 p.toNat).e).toNat)) := rfl

theorem convIbm32Ieee64_eq (p : BitVec 32) :
    convIbm32Ieee64 p =
      BitVec.ofNat 64 (pathResult64 (front .w32 .w64 p.toNat) ((front .w32 .w64 p.toNat).norm <<< 29)) := by
  simp only [convIbm32Ieee64, pathResult64]
  cases (front .w32 .w64 p.toNat).zero <;> rfl

theorem convIbm64Ieee64_eq (p : BitVec 64) :
    convIbm64Ieee64 p =
      BitVec.ofNat 64 (pathResult64 (front .w64 .w64 p.toNat) (rneShr (front .w64 .w64 p.toNat).norm 3)) := by
  simp only [convIbm64Ieee64, pathResult64]
  cases (front .w64 .w64 p.toNat).zero <;> rfl

section Paths
variable {f : FrontEnd} (mNormal mSubnormal : Nat)

theorem pathResult32_of_zero (hz : f.zero = true) : pathResult32 f mNormal mSubnormal = f.sgn := by
  simp [pathResult32, hz]

theorem pathResult32_of_normal (hz : f.zero = false) (h0 : 0 ≤ f.e) (h : f.e < 254) :
    pathResult32 f mNormal mSubnormal = assembleNormal .w32 f.sgn f.e mNormal := by
  simp [pathResult32, hz, rangeDispatch_w32_of_normal h0 h]

theorem pathResult32_of_overflow (hz : f.zero = false) (h : 254 ≤ f.e) :
    pathResult32 f mNormal mSubnormal = assembleInfinity .w32 f.sgn := by
  simp [pathResult32, hz, rangeDispatch_w32_of_overflow h]

theorem pathResult32_of_subnormal (hz : f.zero = false) (h : -32 ≤ f.e) (h0 : f.e < 0) :
    pathResult32 f mNormal mSubnormal = assembleSubnormal .w32 f.sgn mSubnormal := by
  simp [pathResult32, hz, rangeDispatch_w32_of_subnormal h h0]

theorem pathResult32_of_underflow (hz : f.zero = false) (h : f.e < -32) :
    pathResult32 f mNormal mSubnormal = f.sgn := by
  simp [pathResult32, hz, rangeDispatch_w32_of_underflow h]

end Paths

/-! ### Results to a 32-bit destination stand at or below infinity (R37) -/

/-- The largest exponent with the largest carry is just infinity (R61, R64). -/
theorem assembleNormal_w32_le_infinity (b : Nat) {e : Int} {m : Nat} (he : e < 254) (hm : m ≤ 2 ^ 24) :
    ieeeMagnitudeBits .w32 (assembleNormal .w32 (placeSign .w32 b) e m) ≤ infinityPattern .w32 := by
  rw [ieeeMagnitudeBits_assembleNormal, infinityPattern_w32]
  simp only [significandWidth, Width.bits]
  omega

theorem assembleSubnormal_w32_le_infinity (b : Nat) {m : Nat} (hm : m ≤ 2 ^ 23) :
    ieeeMagnitudeBits .w32 (assembleSubnormal .w32 (placeSign .w32 b) m) ≤ infinityPattern .w32 := by
  rw [ieeeMagnitudeBits_assembleSubnormal, infinityPattern_w32]
  simp only [Width.bits]
  omega

/-- It is enough that the normal significand is at most one carry above 24 bits, and the subnormal one at most the
smallest normal number. -/
theorem pathResult32_le_infinity {f : FrontEnd} {b mNormal mSubnormal : Nat} (hsgn : f.sgn = placeSign .w32 b)
    (hnormal : f.zero = false → mNormal ≤ 2 ^ 24) (hsubnormal : f.zero = false → f.e < 0 → mSubnormal ≤ 2 ^ 23) :
    ieeeMagnitudeBits .w32 (pathResult32 f mNormal mSubnormal) ≤ infinityPattern .w32 := by
  cases hz : f.zero
  case true => simp [pathResult32_of_zero _ _ hz, hsgn]
  case false =>
    rcases lt_or_ge f.e (-32) with hunder | hsub
    · simp [pathResult32_of_underflow _ _ hz hunder, hsgn]
    rcases lt_or_ge f.e 0 with hneg | h0
    · rw [pathResult32_of_subnormal _ _ hz hsub hneg, hsgn]
      exact assembleSubnormal_w32_le_infinity b (hsubnormal hz hneg)
    rcases lt_or_ge f.e 254 with hlt | hover
    · rw [pathResult32_of_normal _ _ hz h0 hlt, hsgn]
      exact assembleNormal_w32_le_infinity b hlt (hnormal hz)
    · simp [pathResult32_of_overflow _ _ hz hover, hsgn]

theorem ieeeMagnitudeBits_ofNat32 (n : Nat) :
    ieeeMagnitudeBits .w32 (BitVec.ofNat 32 n).toNat = ieeeMagnitudeBits .w32 n := by
  rw [BitVec.toNat_ofNat]
  exact ieeeMagnitudeBits_mod .w32 n

theorem convIbm32Ieee32_le_infinity (p : BitVec 32) :
    ieeeMagnitudeBits .w32 (convIbm32Ieee32 p).toNat ≤ infinityPattern .w32 := by
  have hnorm (hz : (front .w32 .w32 p.toNat).zero = false) : (front .w32 .w32 p.toNat).norm < 2 ^ 24 :=
    (front_norm_bounds .w32 (extract_fraction_ne_zero_of_front hz)).2
  rw [convIbm32Ieee32_eq, ieeeMagnitudeBits_ofNat32]
  refine pathResult32_le_infinity (front_sgn ..) (fun hz => (hnorm hz).le) fun hz he => ?_
  exact rneShr_le_two_pow (hnorm hz) (by omega)

theorem convIbm64Ieee32_le_infinity (p : BitVec 64) :
    ieeeMagnitudeBits .w32 (convIbm64Ieee32 p).toNat ≤ infinityPattern .w32 := by
  have hnorm (hz : (front .w64 .w32 p.toNat).zero = false) : (front .w64 .w32 p.toNat).norm < 2 ^ 56 :=
    (front_norm_bounds .w32 (extract_fraction_ne_zero_of_front hz)).2
  rw [convIbm64Ieee32_eq, ieeeMagnitudeBits_ofNat32]
  refine pathResult32_le_infinity (front_sgn ..) (fun hz => rneShr_le_two_pow (hnorm hz) le_rfl) fun hz he => ?_
  exact rneShr_le_two_pow (hnorm hz) (by omega)

/-! ### Results to a 64-bit destination are zeros or normal numbers (R71, R74) -/

theorem assembleNormal_w64_normal (b : Nat) {e : Int} {m : Nat} (he : e ≤ 1273) (hlo : 2 ^ 52 ≤ m)
    (hhi : m ≤ 2 ^ 53) : ieeeClass .w64 (assembleNormal .w64 (placeSign .w64 b) e m) = .normal := by
  rw [ieeeClass_eq_normal_iff, ieeeMagnitudeBits_assembleNormal, infinityPattern_w64]
  simp only [significandWidth, Width.bits]
  omega

theorem pathResult64_lt {f : FrontEnd} {b m : Nat} (hsgn : f.sgn = placeSign .w64 b) (hb : b < 2) :
    pathResult64 f m < 2 ^ 64 := by
  rw [pathResult64, hsgn, placeSign_eq]
  split_ifs
  · simp only [Width.bits]
    omega
  · exact assembleNormal_lt ..

/-- A zero fraction gives a zero, and a significand of 53 bits or its carry a normal number. -/
theorem pathResult64_zero_or_normal {f : FrontEnd} {b m : Nat} (hsgn : f.sgn = placeSign .w64 b)
    (h : f.zero = false → f.e ≤ 1273 ∧ 2 ^ 52 ≤ m ∧ m ≤ 2 ^ 53) :
    ieeeClass .w64 (pathResult64 f m) = .zero ∨ ieeeClass .w64 (pathResult64 f m) = .normal := by
  rw [pathResult64, hsgn]
  cases hz : f.zero
  case true => exact .inl (by simp [ieeeClass_eq_zero_iff])
  case false =>
    obtain ⟨he, hlo, hhi⟩ := h hz
    exact .inr (by simpa using assembleNormal_w64_normal b he hlo hhi)

theorem legalResult64_ofNat {n : Nat} (hn : n < 2 ^ 64)
    (h : ieeeClass .w64 n = .zero ∨ ieeeClass .w64 n = .normal) : LegalResult64 (BitVec.ofNat 64 n) := by
  rwa [LegalResult64, BitVec.toNat_ofNat, Nat.mod_eq_of_lt hn]

theorem legalResult64_convIbm32Ieee64 (p : BitVec 32) : LegalResult64 (convIbm32Ieee64 p) := by
  rw [convIbm32Ieee64_eq]
  refine legalResult64_ofNat (pathResult64_lt (front_sgn ..) (extract_sign_lt ..))
    (pathResult64_zero_or_normal (front_sgn ..) fun hz => ?_)
  have hfraction := extract_fraction_ne_zero_of_front hz
  obtain ⟨hlo, hhi⟩ := front_norm_bounds .w64 hfraction
  simp only [fractionWidth, Width.bits] at hlo hhi
  rw [Nat.shiftLeft_eq]
  exact ⟨(front_e_bounds .w64 hfraction).2, by omega, by omega⟩

theorem legalResult64_convIbm64Ieee64 (p : BitVec 64) : LegalResult64 (convIbm64Ieee64 p) := by
  rw [convIbm64Ieee64_eq]
  refine legalResult64_ofNat (pathResult64_lt (front_sgn ..) (extract_sign_lt ..))
    (pathResult64_zero_or_normal (front_sgn ..) fun hz => ?_)
  have hfraction := extract_fraction_ne_zero_of_front hz
  obtain ⟨hlo, hhi⟩ := front_norm_bounds .w64 hfraction
  exact ⟨(front_e_bounds .w64 hfraction).2, two_pow_le_rneShr hlo, rneShr_le_two_pow hhi le_rfl⟩

/-! ### Every result is legal, and every step is `Convert` (R13, R37, R58) -/

theorem legalResult32_zext64 {r : BitVec 32} (h : ieeeMagnitudeBits .w32 r.toNat ≤ infinityPattern .w32) :
    LegalResult32 (zext64 r) := by
  rw [LegalResult32, zext64_toNat, ieeeClass_ne_nan_iff]
  exact ⟨r.isLt, h⟩

theorem legalResult_convert (op : OpSelect) (src : PortWord) : LegalResult op (convert op src) := by
  unfold LegalResult convert
  cases decodeOp op
  · exact legalResult32_zext64 (convIbm32Ieee32_le_infinity _)
  · exact legalResult64_convIbm32Ieee64 _
  · exact legalResult32_zext64 (convIbm64Ieee32_le_infinity _)
  · exact legalResult64_convIbm64Ieee64 _

theorem step_of_decodeOp {s : State} {i : Instr} (h : decodeOp s.op = i) : step s = exec i s := by
  rw [step, selectedInstr, h]

/-- The operation that `op` selects drives `Convert(op, src)`. -/
theorem exec_decodeOp (op : OpSelect) (s : State) : exec (decodeOp op) s = .next (s.drive (convert op s.src)) := by
  unfold convert
  cases decodeOp op
  · exact exec_ibm32ieee32 s
  · exact exec_ibm32ieee64 s
  · exact exec_ibm64ieee32 s
  · exact exec_ibm64ieee64 s

/-- Everything a step can do (R13). -/
theorem step_eq_drive_convert (s : State) : step s = .next (s.drive (convert s.op s.src)) := exec_decodeOp s.op s

/-- Driving `Convert` of the inputs establishes the port invariant, whatever stood on the output (R90). -/
theorem portInvariant_drive_convert (s : State) : PortInvariant (s.drive (convert s.op s.src)) := by
  have hvalue : ResultIsConversion (s.drive (convert s.op s.src)) := fun v hv => (Option.some.inj hv).symm
  refine ⟨hvalue, fun v hv => ?_⟩
  rw [hvalue v hv]
  exact legalResult_convert s.op s.src

/-- A table word decodes to the operation of the `op` value it drives. -/
theorem decodeTableWord_eq (nbits w : Nat) : decodeTableWord nbits w = some (decodeOp (opOfTableWord nbits w)) := rfl

/-! ### The obligations -/

/-- Settles O15: a step drives `Convert` of the inputs, which is a legal result. -/
theorem stepKeepsPortInvariant : Obligations.StepKeepsPortInvariant := by
  intro s t _ hstep
  rw [step_eq_drive_convert] at hstep
  cases hstep
  exact portInvariant_drive_convert s

/-- Settles O6: the step runs what the decoder selects. -/
theorem stepRunsTheDecodedOperation : Obligations.StepRunsTheDecodedOperation :=
  fun _ _ => step_of_decodeOp

/-- Settles O7: what the table word decodes to is what the port it drives decodes to. -/
theorem placedTableWordRunsNext : Obligations.PlacedTableWordRunsNext := by
  intro s nbits w i h
  rw [decodeTableWord_eq] at h
  have hop : decodeOp (s.withFetchWord nbits w).op = i := by simpa using h
  exact ⟨step_of_decodeOp hop, withFetchWord_src s nbits w⟩

/-- Settles O8, from the operation that `op` selects. -/
theorem stepAppliesConvert : Obligations.StepAppliesConvert := step_eq_drive_convert

/-- Settles O9: the value an operation drives is a function of `src`. -/
theorem resultIgnoresEarlierOperations : Obligations.ResultIgnoresEarlierOperations := by
  intro i s t hsrc
  obtain ⟨value, hdrives⟩ := exec_drives i
  refine ⟨value s.src, hdrives s, ?_⟩
  rw [hsrc]
  exact hdrives t

end Sys2Proof.Machine

/-! ## Served requests (spec/20_memory.md)

The requester's samples, request by request, and the repeated operation. -/

namespace Sys2Proof.Machine

/-- What a step's next state is (R13). -/
theorem step_eq_next_iff {s t : State} : step s = .next t ↔ t = s.drive (convert s.op s.src) := by
  rw [step_eq_drive_convert, Host.Outcome.next.injEq, eq_comm]

/-- A step from a presented request drives `Convert` of that request's inputs. -/
theorem step_present (s : State) (r : Request) :
    step (s.present r) = .next ((s.present r).drive (convertRequest r)) :=
  step_eq_drive_convert (s.present r)

@[simp] theorem serve_nil (s : State) : serve s [] = [] := rfl

/-- The first sample is `Convert` of the first request, and the others are served from the state after it. -/
theorem serve_cons (s : State) (r : Request) (rs : List Request) :
    serve s (r :: rs) = some (convertRequest r) :: serve ((s.present r).drive (convertRequest r)) rs := by
  rw [serve, step_present]
  rfl

/-! ### The obligations -/

/-- Settles O11, by induction on the requests, for every state they are served from. -/
theorem servedRequestsAreIndependent : Obligations.ServedRequestsAreIndependent := by
  intro s rs
  induction rs generalizing s with
  | nil => rw [serve_nil, List.map_nil]
  | cons r rs ih => rw [serve_cons, ih, List.map_cons]

/-- Settles O10: driving a result leaves the input ports, so the next step drives the same value over it. -/
theorem repeatedOperationIsIdempotent : Obligations.RepeatedOperationIsIdempotent := by
  intro s t hstep
  obtain rfl := step_eq_next_iff.mp hstep
  rw [step_eq_next_iff, drive_op, drive_src, drive_drive]

end Sys2Proof.Machine

/-! ## Encoding (spec/30_encoding.md)

The operation select bit by bit, table words, trace lines character by character, operand assembly, and the kinds
of results. -/

namespace Sys2Proof

/-! ### The operation select (R27, R28) -/

/-- Bit 1 of `op` selects the source width. -/
theorem sourceWidth_decodeOp (op : OpSelect) : (decodeOp op).sourceWidth = if op.getLsbD 1 then .w64 else .w32 := by
  unfold decodeOp
  cases op.getLsbD 1 <;> cases op.getLsbD 0 <;> rfl

/-- Bit 0 of `op` selects the destination width. -/
theorem destWidth_decodeOp (op : OpSelect) : (decodeOp op).destWidth = if op.getLsbD 0 then .w64 else .w32 := by
  unfold decodeOp
  cases op.getLsbD 1 <;> cases op.getLsbD 0 <;> rfl

@[simp] theorem decodeOp_encodeOp (i : Instr) : decodeOp (encodeOp i) = i := by
  cases i
  · exact Laws.OpRoundTrip.ibm32ieee32
  · exact Laws.OpRoundTrip.ibm32ieee64
  · exact Laws.OpRoundTrip.ibm64ieee32
  · exact Laws.OpRoundTrip.ibm64ieee64

theorem encodeOp_getLsbD_one (i : Instr) : (encodeOp i).getLsbD 1 = decide (i.sourceWidth = .w64) := by
  cases i <;> rfl

theorem encodeOp_getLsbD_zero (i : Instr) : (encodeOp i).getLsbD 0 = decide (i.destWidth = .w64) := by
  cases i <;> rfl

/-- The two widths an `op` value decodes to give back its two bits, and it has no other. -/
@[simp] theorem encodeOp_decodeOp (op : OpSelect) : encodeOp (decodeOp op) = op := by
  refine BitVec.eq_of_getLsbD_eq fun k hk => ?_
  obtain rfl | rfl : k = 0 ∨ k = 1 := by omega
  · rw [encodeOp_getLsbD_zero, destWidth_decodeOp]
    cases op.getLsbD 0 <;> rfl
  · rw [encodeOp_getLsbD_one, sourceWidth_decodeOp]
    cases op.getLsbD 1 <;> rfl

/-! ### Table words -/

/-- A table word of at least two bits drives its two low bits on the `op` port. -/
theorem opOfTableWord_eq {nbits : Nat} (h : 2 ≤ nbits) (w : Nat) : opOfTableWord nbits w = BitVec.ofNat 2 w := by
  apply BitVec.eq_of_toNat_eq
  simp only [opOfTableWord, opOfByte, byteOfTableWord, BitVec.toNat_ofNat]
  rw [Nat.mod_mod_of_dvd _ (Nat.pow_dvd_pow 2 (by decide : 2 ≤ 8)), Nat.mod_mod_of_dvd _ (Nat.pow_dvd_pow 2 h)]

theorem decodeTableWord_of_two_le {nbits : Nat} (h : 2 ≤ nbits) (w : Nat) :
    decodeTableWord nbits w = some (decodeOp (BitVec.ofNat 2 w)) := by
  rw [Machine.decodeTableWord_eq, opOfTableWord_eq h]

/-! ### Hexadecimal literals (R6, R41) -/

theorem hexDigitValue_hexDigitChar : ∀ v < 16, hexDigitValue (hexDigitChar v) = some v := by decide

theorem hexValue_cons_hexDigitChar {d : Nat} (hd : d < 16) (cs : List Char) (acc : Nat) :
    hexValue (hexDigitChar d :: cs) acc = hexValue cs (16 * acc + d) := by
  rw [hexValue, hexDigitValue_hexDigitChar d hd]

@[simp] theorem length_hexDigits (n v : Nat) : (hexDigits n v).length = n := by
  induction n generalizing v with
  | zero => rfl
  | succ n ih => simp [hexDigits, ih]

/-- Reading the `n` digits of `v` shifts what was read before by `n` digits and adds `v`. -/
theorem hexValue_hexDigits_append {n v : Nat} (hv : v < 16 ^ n) (cs : List Char) (acc : Nat) :
    hexValue (hexDigits n v ++ cs) acc = hexValue cs (16 ^ n * acc + v) := by
  induction n generalizing v cs acc with
  | zero =>
    obtain rfl : v = 0 := by omega
    simp [hexDigits]
  | succ n ih =>
    have hquot : v / 16 < 16 ^ n := by omega
    have hacc : 16 * (16 ^ n * acc + v / 16) + v % 16 = 16 ^ (n + 1) * acc + v := by
      rw [pow_succ', Nat.mul_assoc]
      omega
    rw [hexDigits, List.append_assoc, ih hquot, List.singleton_append,
      hexValue_cons_hexDigitChar (Nat.mod_lt v (by decide)), hacc]

theorem hexValue_hexDigits {n v : Nat} (hv : v < 16 ^ n) : hexValue (hexDigits n v) 0 = .ok v := by
  simpa [hexValue] using hexValue_hexDigits_append hv [] 0

/-- A container's digits are as many as its values need. -/
theorem sixteen_pow_digits (w : Width) : 16 ^ (w.bits / 4) = 2 ^ w.bits := by
  cases w <;> rfl

theorem parseLiteral_printLiteral {w : Width} {v : Nat} (hv : v < 2 ^ w.bits) :
    parseLiteral w (printLiteral w v) = .ok v := by
  rw [← sixteen_pow_digits] at hv
  rw [printLiteral, parseLiteral, if_pos (length_hexDigits _ v), hexValue_hexDigits hv]

/-! ### Mnemonics (R27) -/

theorem parseMnemonic_mnemonicChars (i : Instr) : parseMnemonic (mnemonicChars i) = .ok i := by
  cases i <;> rfl

/-! ### Words of a line (R41) -/

/-- A character that `lineWords` neither cuts at nor makes a word of its own. -/
def IsWordChar (c : Char) : Prop := c ≠ ' ' ∧ c ≠ ';'

/-- Characters that stand in a line as one word. -/
def IsWord (cs : List Char) : Prop := cs ≠ [] ∧ ∀ c ∈ cs, IsWordChar c

theorem lineWords_blank (cs word : List Char) :
    lineWords (' ' :: cs) word = flushWord word ++ lineWords cs [] := by
  rw [lineWords, if_pos rfl]

theorem lineWords_semicolon (cs word : List Char) :
    lineWords (';' :: cs) word = flushWord word ++ [';'] :: lineWords cs [] := by
  rw [lineWords, if_neg (by decide), if_pos rfl]

theorem lineWords_wordChar {c : Char} (hc : IsWordChar c) (cs word : List Char) :
    lineWords (c :: cs) word = lineWords cs (word ++ [c]) := by
  rw [lineWords, if_neg hc.1, if_neg hc.2]

theorem lineWords_append {cs : List Char} (hcs : ∀ c ∈ cs, IsWordChar c) (rest word : List Char) :
    lineWords (cs ++ rest) word = lineWords rest (word ++ cs) := by
  induction cs generalizing word with
  | nil => simp
  | cons c cs ih =>
    obtain ⟨hc, hcs⟩ := List.forall_mem_cons.1 hcs
    rw [List.cons_append, lineWords_wordChar hc, ih hcs, List.append_assoc, List.singleton_append]

@[simp] theorem flushWord_nil : flushWord [] = [] := rfl

theorem flushWord_of_ne_nil {word : List Char} (h : word ≠ []) : flushWord word = [word] := if_neg h

theorem lineWords_word_blank {word : List Char} (h : IsWord word) (rest : List Char) :
    lineWords (word ++ ' ' :: rest) [] = word :: lineWords rest [] := by
  rw [lineWords_append h.2, lineWords_blank, List.nil_append, flushWord_of_ne_nil h.1, List.singleton_append]

theorem lineWords_word {word : List Char} (h : IsWord word) : lineWords word [] = [word] := by
  have happend := lineWords_append h.2 [] []
  rwa [List.append_nil, List.nil_append, lineWords, flushWord_of_ne_nil h.1] at happend

/-! ### What is printed is one word each -/

theorem isWordChar_hexDigitChar : ∀ v < 16, IsWordChar (hexDigitChar v) := by
  unfold IsWordChar
  decide

theorem isWordChar_of_mem_hexDigits {n v : Nat} {c : Char} (hc : c ∈ hexDigits n v) : IsWordChar c := by
  induction n generalizing v with
  | zero => cases hc
  | succ n ih =>
    rcases List.mem_append.1 hc with hhigh | hlow
    · exact ih hhigh
    · rw [List.mem_singleton.1 hlow]
      exact isWordChar_hexDigitChar _ (Nat.mod_lt v (by decide))

theorem isWord_printLiteral (w : Width) (v : Nat) : IsWord (printLiteral w v) := by
  have h0 : IsWordChar '0' := ⟨by decide, by decide⟩
  have hx : IsWordChar 'x' := ⟨by decide, by decide⟩
  exact ⟨List.cons_ne_nil _ _,
    List.forall_mem_cons.2 ⟨h0, List.forall_mem_cons.2 ⟨hx, fun _ => isWordChar_of_mem_hexDigits⟩⟩⟩

theorem isWord_mnemonicChars (i : Instr) : IsWord (mnemonicChars i) := by
  cases i <;> simp [mnemonicChars, IsWord, IsWordChar]

theorem isWord_arrow : IsWord ['-', '>'] := by
  simp [IsWord, IsWordChar]

/-! ### Trace lines (R41) -/

theorem sourceFits_iff (l : TraceLine) : l.sourceFits = true ↔ l.src < 2 ^ l.instr.sourceWidth.bits :=
  decide_eq_true_iff

theorem expectedFits_some_iff (i : Instr) (v r : Nat) :
    TraceLine.expectedFits ⟨i, v, some r⟩ = true ↔ r < 2 ^ i.destWidth.bits :=
  decide_eq_true_iff

theorem wellFormed_iff (l : TraceLine) : l.wellFormed = true ↔ l.sourceFits = true ∧ l.expectedFits = true :=
  Bool.and_eq_true_iff

theorem src_lt_of_wellFormed {l : TraceLine} (h : l.wellFormed = true) : l.src < 2 ^ l.instr.sourceWidth.bits :=
  (sourceFits_iff l).1 ((wellFormed_iff l).1 h).1

/-- A line without a comment is its mnemonic and its literal. -/
theorem lineWords_printTraceLine_none (i : Instr) (v : Nat) :
    lineWords (printTraceLine ⟨i, v, none⟩) [] = [mnemonicChars i, printLiteral i.sourceWidth v] := by
  rw [printTraceLine, printExpected, List.append_nil, lineWords_word_blank (isWord_mnemonicChars i),
    lineWords_word (isWord_printLiteral _ v)]

/-- The comment adds the semicolon, the arrow and the literal of the expected result. -/
theorem lineWords_printTraceLine_some (i : Instr) (v r : Nat) :
    lineWords (printTraceLine ⟨i, v, some r⟩) [] =
      [mnemonicChars i, printLiteral i.sourceWidth v, [';'], ['-', '>'], printLiteral i.destWidth r] := by
  have hcomment : lineWords (';' :: ' ' :: (['-', '>'] ++ ' ' :: printLiteral i.destWidth r)) [] =
      [[';'], ['-', '>'], printLiteral i.destWidth r] := by
    rw [lineWords_semicolon, lineWords_blank, lineWords_word_blank isWord_arrow,
      lineWords_word (isWord_printLiteral _ r)]
    rfl
  calc lineWords (printTraceLine ⟨i, v, some r⟩) []
      = lineWords (mnemonicChars i ++ ' ' :: (printLiteral i.sourceWidth v ++
          ' ' :: ';' :: ' ' :: (['-', '>'] ++ ' ' :: printLiteral i.destWidth r))) [] := by
        simp [printTraceLine, printExpected]
    _ = _ := by
        rw [lineWords_word_blank (isWord_mnemonicChars i), lineWords_word_blank (isWord_printLiteral _ v), hcomment]

section ParseWords
variable {i : Instr} {m a : List Char} {v : Nat}

theorem parseWords_of_two (hm : parseMnemonic m = .ok i) (ha : parseLiteral i.sourceWidth a = .ok v) :
    parseWords [m, a] = .ok ⟨i, v, none⟩ := by
  simp only [parseWords, hm, ha, bind, Except.bind]

theorem parseWords_of_five {r : List Char} {x : Nat} (hm : parseMnemonic m = .ok i)
    (ha : parseLiteral i.sourceWidth a = .ok v) (hr : parseLiteral i.destWidth r = .ok x) :
    parseWords [m, a, [';'], ['-', '>'], r] = .ok ⟨i, v, some x⟩ := by
  simp only [parseWords, hm, ha, hr, bind, Except.bind]

end ParseWords

/-- The presented source is the pattern itself: one that fits its width loses no bit (R41). -/
theorem encodeTraceLine_of_wellFormed {l : TraceLine} (h : l.wellFormed = true) :
    encodeTraceLine l = ⟨encodeOp l.instr, BitVec.ofNat 64 l.src⟩ := by
  rw [encodeTraceLine, Nat.mod_eq_of_lt (src_lt_of_wellFormed h)]

theorem Width.bits_le (w : Width) : w.bits ≤ 64 := by
  cases w <;> decide

theorem encodeTraceLine_src_toNat {l : TraceLine} (h : l.wellFormed = true) :
    (encodeTraceLine l).src.toNat = l.src := by
  have hport : l.src < 2 ^ 64 := (src_lt_of_wellFormed h).trans_le (Nat.pow_le_pow_right two_pos (Width.bits_le _))
  rw [encodeTraceLine_of_wellFormed h, BitVec.toNat_ofNat, Nat.mod_eq_of_lt hport]

end Sys2Proof

namespace Sys2Proof.Machine

/-! ### Operand assembly (R29) -/

theorem operand32_eq_ofNat (src : PortWord) : operand32 src = BitVec.ofNat 32 src.toNat := by
  apply BitVec.eq_of_toNat_eq
  rw [operand32_toNat, BitVec.toNat_ofNat]

/-- A 32-bit source reaches the result through its operand alone. -/
theorem convert_congr_operand32 {op : OpSelect} {a b : PortWord} (hop : (decodeOp op).sourceWidth = .w32)
    (h : operand32 a = operand32 b) : convert op a = convert op b := by
  unfold convert
  cases hi : decodeOp op <;> rw [hi] at hop
  case ibm32ieee32 | ibm32ieee64 => simp only [h]
  case ibm64ieee32 | ibm64ieee64 => cases hop

/-! ### Infinities (R37) -/

/-- Infinity is one magnitude pattern. -/
theorem ieeeClass_eq_infinity_iff (dw : Width) (r : Nat) :
    ieeeClass dw r = .infinity ↔ ieeeMagnitudeBits dw r = infinityPattern dw := by
  have hpos := Nat.two_pow_pos (significandWidth dw)
  have hle := two_pow_significandWidth_le_infinityPattern dw
  rw [ieeeClass_eq]
  split_ifs <;> simp <;> omega

/-- The 32-bit infinities are the pattern without and with the sign bit. -/
theorem eq_of_ieeeClass_w32_infinity {r : Nat} (hr : r < 2 ^ 32) (h : ieeeClass .w32 r = .infinity) :
    r = 0x7F800000 ∨ r = 0x7F800000 + 2 ^ 31 := by
  rw [ieeeClass_eq_infinity_iff, infinityPattern_w32] at h
  simp only [ieeeMagnitudeBits, Width.bits] at h
  omega

theorem legalResult32_convert {op : OpSelect} (hop : op.getLsbD 0 = false) (src : PortWord) :
    LegalResult32 (convert op src) := by
  have hlegal := legalResult_convert op src
  rwa [LegalResult, destWidth_decodeOp, hop] at hlegal

/-! ### The obligations -/

/-- Settles O4: a printed line falls into its words again, and each word is read back as what it was printed from. -/
theorem traceLineReadsBackAsPrinted : Obligations.TraceLineReadsBackAsPrinted := by
  rintro ⟨i, v, expected⟩ hwf
  have hmnemonic := parseMnemonic_mnemonicChars i
  have hsource : parseLiteral i.sourceWidth (printLiteral i.sourceWidth v) = .ok v :=
    parseLiteral_printLiteral (src_lt_of_wellFormed hwf)
  rw [parseTraceLine]
  cases expected with
  | none =>
    rw [lineWords_printTraceLine_none]
    exact parseWords_of_two hmnemonic hsource
  | some r =>
    have hr := (expectedFits_some_iff i v r).1 ((wellFormed_iff _).1 hwf).2
    rw [lineWords_printTraceLine_some]
    exact parseWords_of_five hmnemonic hsource (parseLiteral_printLiteral hr)

/-- Settles O18: every result is legal, and the 32-bit infinities are two patterns. -/
theorem everyResultIsLegal : Obligations.EveryResultIsLegal := by
  intro op src
  refine ⟨legalResult_convert op src, fun hop hinf => ?_⟩
  obtain ⟨hlt, -⟩ := legalResult32_convert hop src
  exact eq_of_ieeeClass_w32_infinity hlt hinf

/-- Settles O1: the four values are the four encodings. -/
theorem opSelectNamesTheFourOperations : Obligations.OpSelectNamesTheFourOperations :=
  ⟨decodeOp_encodeOp .ibm32ieee32, decodeOp_encodeOp .ibm32ieee64, decodeOp_encodeOp .ibm64ieee32,
    decodeOp_encodeOp .ibm64ieee64, fun op => ⟨sourceWidth_decodeOp op, destWidth_decodeOp op⟩⟩

/-- Settles O2: each operation's encoding decodes to it, and the two widths of an operation are the bits of its `op`. -/
theorem opSelectDecodeEncodeAgree : Obligations.OpSelectDecodeEncodeAgree :=
  ⟨decodeOp_encodeOp, encodeOp_decodeOp⟩

/-- Settles O3: a table word decodes as its two low bits, which in these words are the four encodings. -/
theorem tableWordsDecode : Obligations.TableWordsDecode := by
  have hword (i : Instr) (w : Nat) (h : BitVec.ofNat 2 w = encodeOp i) : decodeTableWord 8 w = some i := by
    rw [decodeTableWord_of_two_le (by decide), h, decodeOp_encodeOp]
  exact ⟨hword .ibm32ieee32 0 rfl, hword .ibm32ieee64 1 rfl, hword .ibm64ieee32 2 rfl, hword .ibm64ieee64 3 rfl⟩

/-- Settles O5: the encoding keeps the operation and the pattern, so the step runs the operation on the pattern. -/
theorem traceLineEncodesAndRuns : Obligations.TraceLineEncodesAndRuns := by
  intro l s hwf
  refine ⟨rfl, encodeTraceLine_src_toNat hwf, fun hw => ?_, step_of_decodeOp (decodeOp_encodeOp l.instr), ?_⟩
  · have hsrc := src_lt_of_wellFormed hwf
    rw [hw] at hsrc
    rwa [encodeTraceLine_src_toNat hwf]
  · rw [serve_cons, serve_nil, encodeTraceLine_of_wellFormed hwf, convertRequest]

/-- Settles O16: `Convert` case by case, and ports that agree in the low half have the same 32-bit operand. -/
theorem operandAssembly : Obligations.OperandAssembly := by
  refine ⟨fun src => ?_, fun op a b hop hab => ?_⟩
  · rw [← operand32_eq_ofNat]
    exact ⟨rfl, rfl, rfl, rfl⟩
  · have hsource : (decodeOp op).sourceWidth = .w32 := by rw [sourceWidth_decodeOp, hop]; rfl
    refine convert_congr_operand32 hsource (BitVec.eq_of_toNat_eq ?_)
    rw [operand32_toNat, operand32_toNat, hab]

end Sys2Proof.Machine

/-! ## Datapath (spec/40_datapath.md)

Exponent alignment, digit normaliser, leading-zero counts and rebias adder; the rounding unit bit by bit and as the
nearest integer; the fields the assembler builds; the range dispatch. -/

namespace Sys2Proof.Machine

/-! ### Widths: WF is D hex digits (R30, R31) -/

theorem fractionWidth_eq (w : Width) : fractionWidth w = 4 * (hexDigitCount w - 1) + 4 := by
  cases w <;> rfl

theorem two_pow_fractionWidth (w : Width) : 2 ^ fractionWidth w = 16 ^ hexDigitCount w := by
  cases w <;> rfl

theorem two_pow_fractionWidth_sub_four (w : Width) : 2 ^ (fractionWidth w - 4) = 16 ^ (hexDigitCount w - 1) := by
  cases w <;> rfl

/-! ### Exponent alignment (R44) -/

theorem extract_exponent_eq (sw : Width) (p : Nat) :
    (extract sw p).exponent = (p >>> fractionWidth sw) % 2 ^ 7 := by
  cases sw <;> rfl

/-- A mask of `k` ones above `n` bits keeps those bits in place. -/
theorem and_shiftLeft_ones (p k n : Nat) : p &&& (2 ^ k - 1) <<< n = ((p >>> n) % 2 ^ k) <<< n := by
  refine Nat.eq_of_testBit_eq fun i => ?_
  rcases Nat.lt_or_ge i n with hlow | hhigh
  · simp [Nat.testBit_shiftLeft, hlow.not_ge]
  · simp [Nat.testBit_shiftLeft, Nat.testBit_mod_two_pow, Nat.testBit_two_pow_sub_one, hhigh, Bool.and_comm]

/-- The exponent bits stand WF places up and are shifted down by WF - 2 only. -/
theorem alignedExponent_eq (sw : Width) (p : Nat) : alignedExponent sw p = 4 * (extract sw p).exponent := by
  have hshift : sw.bits - 10 ≤ fractionWidth sw ∧ fractionWidth sw - (sw.bits - 10) = 2 := by
    cases sw <;> decide
  obtain ⟨hle, hnet⟩ := hshift
  rw [alignedExponent, exponentMask, and_shiftLeft_ones, ← extract_exponent_eq, ← Nat.shiftLeft_sub _ hle, hnet,
    Nat.shiftLeft_eq, Nat.mul_comm]

/-! ### Top digit and its lookup (R45, R46) -/

theorem topDigit_eq_div {w : Width} {f : Nat} (h : f < 2 ^ fractionWidth w) :
    topDigit w f = f / 2 ^ (fractionWidth w - 4) := by
  rw [topDigit, slice_eq]
  cases w <;> simp only [fractionWidth, Width.bits] at h ⊢ <;> omega

/-- The top digit is zero as long as the fraction leaves the top four bits free. -/
theorem topDigit_eq_zero_iff {w : Width} {f : Nat} (h : f < 2 ^ fractionWidth w) :
    topDigit w f = 0 ↔ f < 2 ^ (fractionWidth w - 4) := by
  rw [topDigit_eq_div h, Nat.div_eq_zero_iff_lt (Nat.two_pow_pos _)]

/-- The lookup is the count of leading zero bits of a digit (R46). -/
theorem lz4_spec : ∀ d ≤ 15, 1 ≤ d → lz4 d ≤ 3 ∧ 2 ^ (3 - lz4 d) ≤ d ∧ d < 2 ^ (4 - lz4 d) := by decide

/-- Shifted by the lookup of its top digit, a digit-normalised fraction has its top bit at bit WF - 1 (R46). -/
theorem mul_two_pow_lz4_bounds {w : Width} {f : Nat} (hlo : 2 ^ (fractionWidth w - 4) ≤ f)
    (hhi : f < 2 ^ fractionWidth w) :
    2 ^ (fractionWidth w - 1) ≤ f * 2 ^ lz4 (topDigit w f) ∧ f * 2 ^ lz4 (topDigit w f) < 2 ^ fractionWidth w := by
  have hw := fractionWidth_eq w
  have hdigit := topDigit_eq_div hhi
  have hd0 : topDigit w f ≠ 0 := by rw [Ne, topDigit_eq_zero_iff hhi]; omega
  have hd15 : topDigit w f < 2 ^ 4 := by
    rw [hdigit]
    exact Nat.div_lt_of_lt_mul (by rw [← pow_add]; convert hhi using 2; omega)
  obtain ⟨hle, hdlo, hdhi⟩ := lz4_spec (topDigit w f) (by omega) (by omega)
  generalize lz4 (topDigit w f) = l at hle hdlo hdhi ⊢
  rw [hdigit, Nat.le_div_iff_mul_le (Nat.two_pow_pos _)] at hdlo
  rw [hdigit, Nat.div_lt_iff_lt_mul (Nat.two_pow_pos _)] at hdhi
  constructor
  · calc 2 ^ (fractionWidth w - 1)
        = 2 ^ (3 - l) * 2 ^ (fractionWidth w - 4) * 2 ^ l := by rw [← pow_add, ← pow_add]; congr 1; omega
      _ ≤ f * 2 ^ l := Nat.mul_le_mul_right _ hdlo
  · calc f * 2 ^ l
        < 2 ^ (4 - l) * 2 ^ (fractionWidth w - 4) * 2 ^ l := Nat.mul_lt_mul_of_pos_right hdhi (Nat.two_pow_pos l)
      _ = 2 ^ fractionWidth w := by rw [← pow_add, ← pow_add]; congr 1; omega

/-! ### Digit normaliser (R45) -/

/-- Everything the loop can answer, given turns enough to bring a digit to the top: k digits are shifted out, and the
top digit is no longer zero. -/
theorem normaliseLoop_spec {w : Width} (turns : Nat) (n : Normalised) (hlt : n.fraction < 2 ^ fractionWidth w)
    (hturns : 2 ^ (fractionWidth w - 4) ≤ n.fraction * 16 ^ turns) :
    ∃ k ≤ turns, normaliseLoop w turns n = ⟨n.fraction * 16 ^ k, n.exponent - 4 * k, n.digits + k⟩ ∧
      2 ^ (fractionWidth w - 4) ≤ n.fraction * 16 ^ k ∧ n.fraction * 16 ^ k < 2 ^ fractionWidth w := by
  induction turns generalizing n with
  | zero => exact ⟨0, le_rfl, by simp [normaliseLoop], hturns, by simpa using hlt⟩
  | succ turns ih =>
    rw [normaliseLoop]
    split_ifs with htop
    · rw [topDigit_eq_zero_iff hlt] at htop
      have hroom : n.fraction * 16 < 2 ^ fractionWidth w := by
        have hw : 2 ^ fractionWidth w = 2 ^ (fractionWidth w - 4) * 2 ^ 4 := by
          rw [← pow_add, fractionWidth_eq, Nat.add_sub_cancel]
        omega
      obtain ⟨k, hk, heq, hlo, hhi⟩ := ih ⟨n.fraction <<< 4, n.exponent - 4, n.digits + 1⟩
        (by simpa [Nat.shiftLeft_eq] using hroom)
        (by simpa [Nat.shiftLeft_eq, pow_succ', Nat.mul_assoc] using hturns)
      have hshift : n.fraction <<< 4 * 16 ^ k = n.fraction * 16 ^ (k + 1) := by
        rw [Nat.shiftLeft_eq, Nat.mul_assoc, ← Nat.pow_succ']
      simp only [hshift] at heq hlo hhi
      refine ⟨k + 1, by omega, ?_, hlo, hhi⟩
      rw [heq, Normalised.mk.injEq]
      exact ⟨rfl, by push_cast; ring, by omega⟩
    · rw [topDigit_eq_zero_iff hlt, not_lt] at htop
      exact ⟨0, Nat.zero_le _, by simp, by simpa using htop, by simpa using hlt⟩

/-- D - 1 turns are enough for every nonzero fraction (R45). -/
theorem normaliseDigits_spec {w : Width} {f : Nat} (x0 : Int) (hpos : 0 < f) (hlt : f < 2 ^ fractionWidth w) :
    ∃ k ≤ hexDigitCount w - 1, normaliseDigits w f x0 = ⟨f * 16 ^ k, x0 - 4 * k, k⟩ ∧
      2 ^ (fractionWidth w - 4) ≤ f * 16 ^ k ∧ f * 16 ^ k < 2 ^ fractionWidth w := by
  have hturns : 2 ^ (fractionWidth w - 4) ≤ f * 16 ^ (hexDigitCount w - 1) := by
    rw [two_pow_fractionWidth_sub_four]
    exact Nat.le_mul_of_pos_left _ hpos
  simpa [normaliseDigits] using normaliseLoop_spec (hexDigitCount w - 1) ⟨f, x0, 0⟩ hlt hturns

/-! ### Leading-zero count (R47) -/

theorem extract_fraction_of_lt {w : Width} {f : Nat} (h : f < 2 ^ fractionWidth w) :
    (extract w f).fraction = f := by
  cases w
  · exact (extract_fraction_w32 f).trans (Nat.mod_eq_of_lt h)
  · exact (extract_fraction_w64 f).trans (Nat.mod_eq_of_lt h)

/-- The fused count brings the top bit of every nonzero fraction to bit WF - 1: the front end does, and every fraction
is that of a pattern. -/
theorem shiftLeft_clz_bounds {w : Width} {f : Nat} (h0 : f ≠ 0) (hlt : f < 2 ^ fractionWidth w) :
    2 ^ (fractionWidth w - 1) ≤ f <<< clz (fractionWidth w) f ∧
      f <<< clz (fractionWidth w) f < 2 ^ fractionWidth w := by
  have hfraction := extract_fraction_of_lt hlt
  have hne : (extract w f).fraction ≠ 0 := by rwa [hfraction]
  have hbounds := front_norm_bounds .w32 hne
  rwa [front_of_ne_zero .w32 hne, hfraction] at hbounds

/-- A shift that leaves the top bits free is at most one that fills them. -/
theorem shift_le_of_bounds {w f l m : Nat} (hl : 2 ^ (w - 1) ≤ f * 2 ^ l) (hm : f * 2 ^ m < 2 ^ w) : m ≤ l := by
  by_contra! hlt
  have hover : 2 ^ w ≤ f * 2 ^ m :=
    calc 2 ^ w ≤ 2 ^ (w - 1 + 1) := Nat.pow_le_pow_right two_pos (by omega)
      _ ≤ f * 2 ^ l * 2 := Nat.mul_le_mul_right 2 hl
      _ = f * 2 ^ (l + 1) := by rw [Nat.mul_assoc, ← pow_succ]
      _ ≤ f * 2 ^ m := Nat.mul_le_mul_left f (Nat.pow_le_pow_right two_pos hlt)
  omega

/-- The fused count is the only shift that brings the top bit to bit WF - 1. -/
theorem eq_clz_of_bounds {w : Width} {f l : Nat} (hlo : 2 ^ (fractionWidth w - 1) ≤ f * 2 ^ l)
    (hhi : f * 2 ^ l < 2 ^ fractionWidth w) : l = clz (fractionWidth w) f := by
  have h0 : f ≠ 0 := by
    rintro rfl
    simp at hlo
  have hlt : f < 2 ^ fractionWidth w := (Nat.le_mul_of_pos_right f (Nat.two_pow_pos l)).trans_lt hhi
  obtain ⟨hclzlo, hclzhi⟩ := shiftLeft_clz_bounds h0 hlt
  rw [Nat.shiftLeft_eq] at hclzlo hclzhi
  exact le_antisymm (shift_le_of_bounds hclzlo hhi) (shift_le_of_bounds hlo hclzhi)

/-- Digits first and bits second make the fused shift: 4 k + lz is clz (R47). -/
theorem normaliseDigits_clz {w : Width} {f : Nat} (x0 : Int) (hpos : 0 < f) (hlt : f < 2 ^ fractionWidth w) :
    4 * (normaliseDigits w f x0).digits + lz4 (topDigit w (normaliseDigits w f x0).fraction) =
      clz (fractionWidth w) f := by
  obtain ⟨k, -, heq, hlo, hhi⟩ := normaliseDigits_spec x0 hpos hlt
  obtain ⟨hnlo, hnhi⟩ := mul_two_pow_lz4_bounds hlo hhi
  have hshift (l : Nat) : f * 16 ^ k * 2 ^ l = f * 2 ^ (4 * k + l) := by
    rw [pow_add, pow_mul, Nat.mul_assoc]
    norm_num
  rw [hshift] at hnlo hnhi
  rw [heq]
  exact eq_clz_of_bounds hnlo hnhi

/-- The normaliser's fraction and exponent in terms of its digit count (R45). -/
theorem normaliseDigits_fields {w : Width} {f : Nat} (x0 : Int) (hpos : 0 < f) (hlt : f < 2 ^ fractionWidth w) :
    (normaliseDigits w f x0).fraction = f * 2 ^ (4 * (normaliseDigits w f x0).digits) ∧
      (normaliseDigits w f x0).exponent = x0 - 4 * ((normaliseDigits w f x0).digits : Int) := by
  obtain ⟨k, -, heq, -, -⟩ := normaliseDigits_spec x0 hpos hlt
  rw [heq]
  exact ⟨by rw [pow_mul]; norm_num, rfl⟩

/-- The staged shift of the fraction is the fused one (R47). -/
theorem normaliseDigits_shiftLeft_lz4 {w : Width} {f : Nat} (x0 : Int) (hpos : 0 < f)
    (hlt : f < 2 ^ fractionWidth w) :
    (normaliseDigits w f x0).fraction <<< lz4 (topDigit w (normaliseDigits w f x0).fraction) =
      f <<< clz (fractionWidth w) f := by
  rw [← normaliseDigits_clz x0 hpos hlt, Nat.shiftLeft_eq, Nat.shiftLeft_eq, pow_add, ← Nat.mul_assoc,
    ← (normaliseDigits_fields x0 hpos hlt).1]

/-- The staged exponent, with lz subtracted once, is the fused one (R47, R48). -/
theorem normaliseDigits_exponent_sub_lz4 {w : Width} {f : Nat} (x0 : Int) (hpos : 0 < f)
    (hlt : f < 2 ^ fractionWidth w) :
    (normaliseDigits w f x0).exponent - (lz4 (topDigit w (normaliseDigits w f x0).fraction) : Int) =
      x0 - (clz (fractionWidth w) f : Int) := by
  obtain ⟨-, hexponent⟩ := normaliseDigits_fields x0 hpos hlt
  have hclz := normaliseDigits_clz x0 hpos hlt
  omega

/-! ### Front end (R48, R49, R58) -/

theorem front_norm_of_ne_zero {sw : Width} (dw : Width) {p : Nat} (h : (extract sw p).fraction ≠ 0) :
    (front sw dw p).norm = (extract sw p).fraction * 2 ^ clz (fractionWidth sw) (extract sw p).fraction := by
  rw [front_of_ne_zero dw h, Nat.shiftLeft_eq]

theorem front_e_of_ne_zero {sw : Width} (dw : Width) {p : Nat} (h : (extract sw p).fraction ≠ 0) :
    (front sw dw p).e = 4 * ((extract sw p).exponent : Int) -
      (clz (fractionWidth sw) (extract sw p).fraction : Int) + rebiasConstant dw := by
  rw [front_of_ne_zero dw h, workingExponent]

/-- A fraction with its top bit set and the largest exponent field give the largest e (R50). -/
theorem front_e_of_max {sw : Width} (dw : Width) {p : Nat} (hE : (extract sw p).exponent = 127)
    (hF : 2 ^ (fractionWidth sw - 1) ≤ (extract sw p).fraction) : (front sw dw p).e = 508 + rebiasConstant dw := by
  have hne : (extract sw p).fraction ≠ 0 := ((Nat.two_pow_pos _).trans_le hF).ne'
  have hclz : 0 = clz (fractionWidth sw) (extract sw p).fraction :=
    eq_clz_of_bounds (by simpa using hF) (by simpa using extract_fraction_lt sw p)
  rw [front_e_of_ne_zero dw hne, hE, ← hclz]
  norm_num

/-- K takes 256 off the IEEE bias for the hex bias, and two ones (R49). -/
theorem rebiasConstant_eq (dw : Width) : rebiasConstant dw = ieeeBias dw - 256 - 1 - 1 := by
  cases dw <;> rfl

theorem ibmMagnitude_eq_two_zpow (sw : Width) (p : Nat) :
    ibmMagnitude sw p =
      ((extract sw p).fraction : ℚ) * 2 ^ (4 * ((extract sw p).exponent : ℤ) - 256 - fractionWidth sw) := by
  have hbase : (16 : ℚ) = 2 ^ (4 : ℤ) := by norm_num
  have hexp : 4 * (((extract sw p).exponent : ℤ) - 64) = 4 * ((extract sw p).exponent : ℤ) - 256 := by ring
  rw [ibmMagnitude, hbase, ← zpow_mul, hexp, zpow_sub₀ two_ne_zero _ (fractionWidth sw : ℤ), zpow_natCast]
  ring

/-- The value identity: the leading-zero count that N gains is what e loses (R49). -/
theorem ibmMagnitude_eq_norm {sw : Width} (dw : Width) {p : Nat} (h : (extract sw p).fraction ≠ 0) :
    ibmMagnitude sw p = ((front sw dw p).norm : ℚ) *
      2 ^ ((front sw dw p).e - rebiasConstant dw - 256 - (fractionWidth sw : ℤ)) := by
  rw [ibmMagnitude_eq_two_zpow, front_norm_of_ne_zero dw h, front_e_of_ne_zero dw h]
  generalize clz (fractionWidth sw) (extract sw p).fraction = l
  rw [Nat.cast_mul, Nat.cast_pow, Nat.cast_two, mul_assoc, ← zpow_natCast, ← zpow_add₀ two_ne_zero]
  congr 2
  ring

/-- The front end of the separate sub-blocks is the fused one: N and e depend on 4 k + lz alone (R47, R58). -/
theorem frontStaged_eq_front (sw dw : Width) (p : Nat) : frontStaged sw dw p = front sw dw p := by
  by_cases h : (extract sw p).fraction = 0
  · rw [front_of_zero dw h]
    simp only [frontStaged]
    rw [if_pos h]
  · have hpos := Nat.pos_of_ne_zero h
    have hlt := extract_fraction_lt sw p
    have hexponent := normaliseDigits_exponent_sub_lz4 (workingExponent (extract sw p).exponent) hpos hlt
    rw [front_of_ne_zero dw h]
    simp only [frontStaged]
    rw [if_neg h, normaliseDigits_shiftLeft_lz4 _ hpos hlt, FrontEnd.mk.injEq]
    exact ⟨rfl, rfl, rfl, by omega⟩

/-- A 12-bit two's-complement register is exact on its range (R50). -/
theorem exponentRegister_toInt {e : Int} (hlo : -2048 ≤ e) (hhi : e < 2048) : (exponentRegister e).toInt = e :=
  BitVec.toInt_ofInt_eq_self (by decide) hlo hhi

/-! ### Rounding unit (R51, R52, R53) -/

/-- The trailing part is nonzero exactly if one of its bits is 1. -/
theorem mod_two_pow_ne_zero_iff (x k : Nat) : x % 2 ^ k ≠ 0 ↔ ∃ j, j < k ∧ x.testBit j = true := by
  constructor
  · intro h
    obtain ⟨j, hj⟩ := Nat.exists_testBit_of_ne_zero h
    exact ⟨j, by simpa [Nat.testBit_mod_two_pow] using hj⟩
  · rintro ⟨j, hj, hbit⟩ h0
    have hmod : (x % 2 ^ k).testBit j = true := by simp [Nat.testBit_mod_two_pow, hj, hbit]
    simp [h0] at hmod

/-- Whether the unit rounds up: the rounding bit, and the parity bit or a trailing bit (R51). -/
def roundsUp (x n : Nat) : Bool := x.testBit (n - 1) && (x.testBit n || decide (x % 2 ^ (n - 1) ≠ 0))

theorem roundsUp_iff (x n : Nat) :
    roundsUp x n = true ↔
      x.testBit (n - 1) = true ∧ (x.testBit n = true ∨ ∃ j, j < n - 1 ∧ x.testBit j = true) := by
  simp only [roundsUp, Bool.and_eq_true, Bool.or_eq_true, decide_eq_true_iff, mod_two_pow_ne_zero_iff]

/-- The bit form of the rounding unit: the truncated quotient and the decision (R51). -/
theorem rneShr_eq (x n : Nat) : rneShr x n = x / 2 ^ n + (roundsUp x n).toNat := by
  have hbit (i : Nat) : (x >>> i) &&& 1 = (x.testBit i).toNat := by
    rw [Nat.and_one_is_mod, Nat.shiftRight_eq_div_pow, Nat.toNat_testBit]
  have hdecide (r p t : Bool) : r.toNat &&& (p.toNat ||| t.toNat) = (r && (p || t)).toNat := by
    revert r p t
    decide
  simp only [rneShr]
  rw [hbit, hbit, hdecide, Nat.and_two_pow_sub_one_eq_mod, Nat.shiftRight_eq_div_pow, roundsUp]

/-- The mask tests the parity bit and the trailing bits, and not the rounding bit (R52). -/
theorem and_roundMask_ne_zero_iff (x m : Nat) :
    x &&& roundMask (m + 1) ≠ 0 ↔ x.testBit (m + 1) = true ∨ x % 2 ^ m ≠ 0 := by
  have hlow : 2 ^ m - 1 < 2 ^ (m + 1) := by
    have hpow := Nat.pow_lt_pow_right (by decide : 1 < 2) (Nat.lt_add_one m)
    omega
  have hmask : roundMask (m + 1) = 2 ^ (m + 1) ||| (2 ^ m - 1) := by
    simpa [roundMask] using Nat.two_pow_add_eq_or_of_lt hlow 1
  rw [hmask, Nat.and_or_distrib_left, Nat.and_two_pow, Nat.and_two_pow_sub_one_eq_mod, Ne, Nat.or_eq_zero_iff,
    not_and_or]
  cases x.testBit (m + 1) <;> simp

/-- Adding below the rounding bit carries into the quotient exactly if the rounding bit is 1 (R52). -/
theorem rneShrMask_eq_rneShr (x : Nat) {n : Nat} (hn : 1 ≤ n) : rneShrMask x n = rneShr x n := by
  obtain ⟨m, rfl⟩ : ∃ m, n = m + 1 := ⟨n - 1, by omega⟩
  have hquot : x / 2 ^ (m + 1) = x / 2 ^ m / 2 := by rw [pow_succ, Nat.div_div_eq_div_mul]
  have hround : x / 2 ^ m % 2 = (x.testBit m).toNat := (Nat.toNat_testBit x m).symm
  have htest : decide (x &&& roundMask (m + 1) ≠ 0) = (x.testBit (m + 1) || decide (x % 2 ^ m ≠ 0)) := by
    rw [Bool.eq_iff_iff]
    simp only [decide_eq_true_iff, Bool.or_eq_true, and_roundMask_ne_zero_iff]
  rw [rneShrMask, rneShr_eq, roundsUp, htest, hquot, Nat.add_sub_cancel, Nat.shiftRight_eq_div_pow,
    Nat.shiftRight_eq_div_pow]
  cases x.testBit (m + 1) || decide (x % 2 ^ m ≠ 0)
  · rw [Bool.and_false, Bool.toNat_false, Nat.add_zero, Nat.add_zero, pow_one]
  · rw [Bool.and_true, Bool.toNat_true]
    omega

/-- The decision compares what is cut off with half of the last place kept, and looks at the parity where they are
equal. -/
theorem roundsUp_succ_iff (x m : Nat) :
    roundsUp x (m + 1) = true ↔
      2 ^ m < x % 2 ^ (m + 1) ∨ x % 2 ^ (m + 1) = 2 ^ m ∧ x / 2 ^ (m + 1) % 2 = 1 := by
  have hrem : x % 2 ^ (m + 1) = x % 2 ^ m + 2 ^ m * (x / 2 ^ m % 2) := Nat.mod_pow_succ
  have hlt : x % 2 ^ m < 2 ^ m := Nat.mod_lt _ (Nat.two_pow_pos m)
  simp only [roundsUp, Nat.add_sub_cancel, Bool.and_eq_true, Bool.or_eq_true, decide_eq_true_iff,
    Nat.testBit_eq_decide_div_mod_eq]
  rcases Nat.mod_two_eq_zero_or_one (x / 2 ^ m) with hbit | hbit <;> rw [hbit] at hrem ⊢ <;> omega

/-- What is within a half of a number is nearest to it, and only a tie asks for an even one (R53). -/
theorem nearestEvenInteger_of_abs_le_half {x : ℚ} {q : ℤ} (hhalf : |x - q| ≤ 1 / 2)
    (htie : |x - q| = 1 / 2 → q % 2 = 0) : NearestEvenInteger x q := by
  intro k
  by_cases hk : k = q
  · exact ⟨by rw [hk], fun _ => .inl hk⟩
  have hone : (1 : ℚ) ≤ |(k : ℚ) - q| := by exact_mod_cast Int.one_le_abs (sub_ne_zero.2 hk)
  have htriangle : |(k : ℚ) - q| ≤ |x - q| + |x - k| := by
    rw [abs_sub_comm x k, add_comm]
    exact abs_sub_le _ _ _
  exact ⟨by linarith, fun heq => .inr (htie (by linarith))⟩

theorem cast_div_two_pow (x n : Nat) :
    (x : ℚ) / 2 ^ n = (x / 2 ^ n : Nat) + ((x % 2 ^ n : Nat) : ℚ) / 2 ^ n := by
  have hpow : (2 : ℚ) ^ n ≠ 0 := by positivity
  rw [div_eq_iff hpow, add_mul, div_mul_cancel₀ _ hpow, mul_comm]
  exact_mod_cast (Nat.div_add_mod x (2 ^ n)).symm

/-- A quotient with a remainder, over an even divisor, rounds by comparing the remainder with half of the divisor, and
by the parity of the quotient where they are equal (R53). -/
theorem nearestEvenInteger_quotient {q r h : Nat} {up : Bool} (hr : r < 2 * h)
    (hup : up = true ↔ h < r ∨ r = h ∧ q % 2 = 1) :
    NearestEvenInteger ((q : ℚ) + (r : ℚ) / (2 * h)) ((q + up.toNat : Nat) : ℤ) := by
  have hpos : (0 : ℚ) < 2 * h := by exact_mod_cast (by omega : 0 < 2 * h)
  have hhalf : (1 / 2 : ℚ) * (2 * h) = h := by ring
  have hle : (r : ℚ) / (2 * h) ≤ 1 / 2 ↔ r ≤ h := by rw [div_le_iff₀ hpos, hhalf, Nat.cast_le]
  have hge : 1 / 2 ≤ (r : ℚ) / (2 * h) ↔ h ≤ r := by rw [le_div_iff₀ hpos, hhalf, Nat.cast_le]
  have htie : (r : ℚ) / (2 * h) = 1 / 2 ↔ r = h := by rw [div_eq_iff hpos.ne', hhalf, Nat.cast_inj]
  have h0 : 0 ≤ (r : ℚ) / (2 * h) := by positivity
  have h1 : (r : ℚ) / (2 * h) < 1 := (div_lt_one hpos).2 (by exact_mod_cast hr)
  generalize (r : ℚ) / (2 * h) = t at hle hge htie h0 h1 ⊢
  cases up
  case false =>
    simp only [Bool.false_eq_true, false_iff] at hup
    have hdist : |(q : ℚ) + t - ((q + false.toNat : Nat) : ℤ)| = t := by simp [abs_of_nonneg h0]
    apply nearestEvenInteger_of_abs_le_half <;> rw [hdist]
    · exact hle.2 (by omega)
    · rw [htie, Bool.toNat_false]
      omega
  case true =>
    simp only [true_iff] at hup
    have hdist : |(q : ℚ) + t - ((q + true.toNat : Nat) : ℤ)| = 1 - t := by
      rw [abs_of_neg] <;> push_cast [Bool.toNat_true] <;> linarith
    have hhalf_le : 1 / 2 ≤ t := hge.2 (by omega)
    apply nearestEvenInteger_of_abs_le_half <;> rw [hdist]
    · linarith
    · intro hdist_tie
      have hr_tie : r = h := htie.1 (by linarith)
      rw [Bool.toNat_true]
      omega

/-- The rounding unit gives the nearest integer, ties to even (R53). -/
theorem rneShr_nearestEven (x : Nat) {n : Nat} (hn : 1 ≤ n) :
    NearestEvenInteger ((x : ℚ) / 2 ^ n) (rneShr x n : ℤ) := by
  obtain ⟨m, rfl⟩ : ∃ m, n = m + 1 := ⟨n - 1, by omega⟩
  have hdouble : (2 : ℚ) ^ (m + 1) = 2 * ((2 ^ m : Nat) : ℚ) := by push_cast; ring
  have hrem : x % 2 ^ (m + 1) < 2 * 2 ^ m := by
    rw [← pow_succ']
    exact Nat.mod_lt _ (Nat.two_pow_pos _)
  rw [rneShr_eq, cast_div_two_pow, hdouble]
  exact nearestEvenInteger_quotient hrem (roundsUp_succ_iff x m)

/-! ### Assembler (R55): what is added to the placed sign stays below it -/

theorem ieeeMagnitudeBits_of_lt {dw : Width} {m : Nat} (b : Nat) (hm : m < 2 ^ (dw.bits - 1)) :
    ieeeMagnitudeBits dw (placeSign dw b + m) = m := by
  rw [ieeeMagnitudeBits_placeSign_add, Nat.mod_eq_of_lt hm]

theorem placeSign_add_lt {dw : Width} {b m : Nat} (hb : b ≤ 1) (hm : m < 2 ^ (dw.bits - 1)) :
    placeSign dw b + m < 2 ^ dw.bits := by
  rw [placeSign_eq]
  cases dw <;> simp only [Width.bits] at hm ⊢ <;> omega

theorem ieeeSign_placeSign_add {dw : Width} {b m : Nat} (hb : b ≤ 1) (hm : m < 2 ^ (dw.bits - 1)) :
    ieeeSign dw (placeSign dw b + m) = b := by
  rw [ieeeSign, slice_eq, placeSign_eq]
  cases dw <;> simp only [Width.bits] at hm ⊢ <;> omega

theorem ieeeExponent_placeSign_add {dw : Width} {m : Nat} (b : Nat) (hm : m < 2 ^ (dw.bits - 1)) :
    ieeeExponent dw (placeSign dw b + m) = m / 2 ^ significandWidth dw := by
  rw [ieeeExponent_eq_div, ieeeMagnitudeBits_of_lt b hm]

theorem ieeeSignificand_placeSign_add {dw : Width} {m : Nat} (b : Nat) (hm : m < 2 ^ (dw.bits - 1)) :
    ieeeSignificand dw (placeSign dw b + m) = m % 2 ^ significandWidth dw := by
  rw [ieeeSignificand_eq_mod, ieeeMagnitudeBits_of_lt b hm]

/-- The sum on the normal path loses no bit (R55). -/
theorem assembleNormal_eq {dw : Width} {b m : Nat} {e : Int} (hb : b ≤ 1)
    (hlt : e.toNat * 2 ^ significandWidth dw + m < 2 ^ (dw.bits - 1)) :
    assembleNormal dw (placeSign dw b) e m = placeSign dw b + (e.toNat * 2 ^ significandWidth dw + m) := by
  rw [assembleNormal, Nat.shiftLeft_eq, Nat.add_assoc, Nat.mod_eq_of_lt (placeSign_add_lt hb hlt)]

theorem assembleSubnormal_eq {dw : Width} {b m : Nat} (hb : b ≤ 1) (hlt : m < 2 ^ (dw.bits - 1)) :
    assembleSubnormal dw (placeSign dw b) m = placeSign dw b + m :=
  Nat.mod_eq_of_lt (placeSign_add_lt hb hlt)

/-- While the hidden bit and a carry leave the exponent field at most all ones, the sum stays below the sign bit
(R55). -/
theorem normalSum_lt {dw : Width} {m : Nat} {e : Int} (he : e + 3 ≤ 2 ^ exponentWidth dw)
    (hm : m ≤ 2 ^ (significandWidth dw + 1)) : e.toNat * 2 ^ significandWidth dw + m < 2 ^ (dw.bits - 1) := by
  cases dw <;> simp only [significandWidth, exponentWidth, Width.bits] at he hm ⊢ <;> omega

/-- The hidden bit counts one and the rounding carry one more (R55). -/
theorem div_hidden_bit {s m : Nat} (hlo : 2 ^ s ≤ m) (hhi : m ≤ 2 ^ (s + 1)) :
    m / 2 ^ s = 1 + m / 2 ^ (s + 1) := by
  have hpos := Nat.two_pow_pos s
  rw [pow_succ] at hhi ⊢
  rcases hhi.eq_or_lt with rfl | hlt
  · rw [Nat.mul_div_cancel_left _ hpos, Nat.div_self (by omega)]
  · rw [Nat.div_eq_of_lt hlt, Nat.div_eq_of_lt_le (k := 1) (by omega) (by omega)]

/-! ### Zero path (R57) -/

section ZeroFraction
variable {sw : Width} {p : Nat} (h : (extract sw p).fraction = 0)
include h

theorem pathResult32_of_fraction_eq_zero (mNormal mSubnormal : Nat) :
    pathResult32 (front sw .w32 p) mNormal mSubnormal = (extract sw p).sign * 2 ^ 31 := by
  rw [pathResult32_of_zero _ _ ((front_zero_iff sw .w32 p).2 h), front_sgn]
  exact placeSign_eq .w32 _

theorem pathResult64_of_fraction_eq_zero (m : Nat) :
    pathResult64 (front sw .w64 p) m = (extract sw p).sign * 2 ^ 63 := by
  rw [pathResult64, if_pos ((front_zero_iff sw .w64 p).2 h), front_sgn]
  exact placeSign_eq .w64 _

end ZeroFraction

/-- A placed sign of 32 bits keeps its place on the port (R34). -/
theorem zext64_ofNat_sign {b : Nat} (hb : b < 2) :
    zext64 (BitVec.ofNat 32 (b * 2 ^ 31)) = BitVec.ofNat 64 (b * 2 ^ 31) :=
  BitVec.setWidth_ofNat_of_le_of_lt (by decide) (by omega)

/-! ### Range dispatch (R56) -/

/-- Every e takes one of four paths to a 32-bit destination. -/
theorem rangeDispatch_w32_cases (e : Int) :
    (e < -32 ∧ rangeDispatch .w32 false e = .underflow) ∨
    ((-32 ≤ e ∧ e < 0) ∧ rangeDispatch .w32 false e = .subnormal) ∨
    ((0 ≤ e ∧ e < 254) ∧ rangeDispatch .w32 false e = .normal) ∨
    (254 ≤ e ∧ rangeDispatch .w32 false e = .overflow) := by
  rcases lt_or_ge e (-32) with hunder | hsub
  · exact .inl ⟨hunder, rangeDispatch_w32_of_underflow hunder⟩
  rcases lt_or_ge e 0 with hneg | h0
  · exact .inr (.inl ⟨⟨hsub, hneg⟩, rangeDispatch_w32_of_subnormal hsub hneg⟩)
  rcases lt_or_ge e 254 with hlt | hover
  · exact .inr (.inr (.inl ⟨⟨h0, hlt⟩, rangeDispatch_w32_of_normal h0 hlt⟩))
  · exact .inr (.inr (.inr ⟨hover, rangeDispatch_w32_of_overflow hover⟩))

/-! ### The obligations -/

/-- Settles O23: the aligned exponent is four times the field, and the field has seven bits. -/
theorem workingExponentByAlignment : Obligations.WorkingExponentByAlignment := by
  intro sw p
  have hE := extract_exponent_lt sw p
  rw [alignedExponent_eq, workingExponent]
  exact ⟨rfl, by push_cast; rfl, by omega⟩

/-- Settles O24, from what the loop can answer with D - 1 turns; the bounds of the shifted fraction are those of the
count. -/
theorem digitNormaliserRemovesLeadingZeroDigits : Obligations.DigitNormaliserRemovesLeadingZeroDigits := by
  intro w f x0 hpos hlt n
  obtain ⟨hfraction, hexponent⟩ := normaliseDigits_fields x0 hpos hlt
  obtain ⟨k, hk, heq, hlo, hhi⟩ := normaliseDigits_spec x0 hpos hlt
  have hn : n = ⟨f * 16 ^ k, x0 - 4 * k, k⟩ := heq
  refine ⟨by rw [hn]; exact hk, hfraction, by rw [hn]; exact hhi, hexponent, ?_, ?_, ?_⟩
  · rw [hn, Ne, topDigit_eq_zero_iff hhi, not_lt]
    exact hlo
  · rw [two_pow_fractionWidth_sub_four, ← pow_sub_mul_pow 16 hk] at hlo
    rw [hn, Nat.sub_right_comm]
    exact Nat.le_of_mul_le_mul_right hlo (by positivity)
  · rw [two_pow_fractionWidth, ← pow_sub_mul_pow 16 (hk.trans (Nat.sub_le _ _))] at hhi
    rw [hn]
    exact Nat.lt_of_mul_lt_mul_right hhi

/-- Settles O26: the staged shift brings the top bit to bit WF - 1, and only the fused count does. -/
theorem fusedLeadingZeroCountMatchesStaged : Obligations.FusedLeadingZeroCountMatchesStaged := by
  intro w f x0 hpos hlt n lz
  obtain ⟨hclz, -⟩ := clz_spec hpos.ne' hlt
  exact ⟨normaliseDigits_clz x0 hpos hlt, by omega, normaliseDigits_exponent_sub_lz4 x0 hpos hlt,
    normaliseDigits_shiftLeft_lz4 x0 hpos hlt, shiftLeft_clz_bounds hpos.ne' hlt⟩

/-- Settles O27: the fused form is the front end's, and 4 k + lz is the fused count. -/
theorem rebiasAdderForms : Obligations.RebiasAdderForms := by
  refine ⟨rfl, rfl, fun sw dw p h => ?_⟩
  intro f n lz
  have hpos : 0 < f.fraction := Nat.pos_of_ne_zero h
  have hlt := extract_fraction_lt sw p
  have hexponent : n.exponent = 4 * (f.exponent : Int) - 4 * (n.digits : Int) :=
    (normaliseDigits_fields (workingExponent f.exponent) hpos hlt).2
  have hclz : 4 * n.digits + lz4 (topDigit sw n.fraction) = clz (fractionWidth sw) f.fraction :=
    normaliseDigits_clz (workingExponent f.exponent) hpos hlt
  have he : (front sw dw p).e = 4 * (f.exponent : Int) - (clz (fractionWidth sw) f.fraction : Int) +
      rebiasConstant dw := front_e_of_ne_zero dw h
  have hlz : lz = (lz4 (topDigit sw n.fraction) : Int) := rfl
  exact ⟨by omega, by omega, he⟩

/-- Settles O28. -/
theorem stagedFrontEndEqualsFused : Obligations.StagedFrontEndEqualsFused := frontStaged_eq_front

/-- Settles O29: the second form of the value is the first with K and the net shift written out. -/
theorem rebiasValueIdentity : Obligations.RebiasValueIdentity := by
  refine ⟨rebiasConstant_eq, by decide, by decide, by decide, by decide, fun sw dw p h => ?_⟩
  have hvalue := ibmMagnitude_eq_norm dw h
  refine ⟨hvalue, ?_⟩
  rw [hvalue, rebiasConstant_eq, div_mul_eq_mul_div, mul_div_assoc, ← zpow_sub₀ two_ne_zero]
  congr 2
  ring

/-- Settles O30: E has seven bits and the count of leading zeros is at most WF - 1; both ends are reached. -/
theorem computedExponentRanges : Obligations.ComputedExponentRanges := by
  refine ⟨fun p h => and_assoc.1 ⟨front_e_bounds .w32 h, front_e_bounds .w64 h⟩,
    fun p h => and_assoc.1 ⟨front_e_bounds .w32 h, front_e_bounds .w64 h⟩,
    by decide, by decide, by decide, by decide,
    fun p hE hF => ⟨front_e_of_max .w32 hE hF, front_e_of_max .w64 hE hF⟩,
    fun p hE hF => ⟨front_e_of_max .w32 hE hF, front_e_of_max .w64 hE hF⟩, fun sw dw p h => ?_⟩
  obtain ⟨hlo, hhi⟩ := front_e_bounds dw h
  have hK : -131 ≤ rebiasConstant dw ∧ rebiasConstant dw ≤ 765 := by cases dw <;> decide
  have hWF : fractionWidth sw ≤ 56 := by cases sw <;> decide
  exact exponentRegister_toInt (by omega) (by omega)

/-- Settles O31: the unit adds its decision, which is the rule's condition. -/
theorem roundingUnitBitRule : Obligations.RoundingUnitBitRule := by
  intro x n _
  rw [rneShr_eq, ← roundsUp_iff]
  exact ⟨fun hup => by rw [hup, Bool.toNat_true],
    fun hdown => by rw [Bool.eq_false_of_not_eq_true hdown, Bool.toNat_false, Nat.add_zero]⟩

/-- Settles O32. -/
theorem roundingMaskFormEqualsBitForm : Obligations.RoundingMaskFormEqualsBitForm :=
  ⟨fun x _ hn => rneShrMask_eq_rneShr x hn, by decide, by decide⟩

/-- Settles O33: from 2^j - 1, one more is 2^j. -/
theorem roundingUnitIsNearestEven : Obligations.RoundingUnitIsNearestEven := by
  intro x n hn
  have hcases := rneShr_cases x n
  refine ⟨rneShr_nearestEven x hn, hcases, fun j hquot hne => ?_⟩
  have hpow := Nat.two_pow_pos j
  rw [hcases.resolve_left hne, hquot, Nat.sub_add_cancel hpow]

/-- Settles O34: what is added to the placed sign stays below it, so its quotient and remainder are the two fields. -/
theorem assemblerFields : Obligations.AssemblerFields := by
  constructor
  · intro dw b m e hb he0 he hlo hhi r
    have hfield : e + 3 ≤ 2 ^ exponentWidth dw := by
      cases dw <;> simp only [exponentWidth] at he ⊢ <;> omega
    have hlt := normalSum_lt hfield hhi
    have hr : r = placeSign dw b + (e.toNat * 2 ^ significandWidth dw + m) := assembleNormal_eq hb hlt
    rw [hr, ieeeSign_placeSign_add hb hlt, ieeeExponent_placeSign_add b hlt, ieeeSignificand_placeSign_add b hlt,
      Nat.add_comm (e.toNat * _) m, Nat.add_mul_div_right _ _ (Nat.two_pow_pos _), Nat.add_mul_mod_self_right,
      div_hidden_bit hlo hhi]
    exact ⟨by omega, rfl, by omega, rfl⟩
  · intro b m hb hm r
    have hlt : m < 2 ^ (Width.w32.bits - 1) := hm.trans_lt (by decide)
    have hr : r = placeSign .w32 b + m := assembleSubnormal_eq hb hlt
    rw [hr]
    exact ⟨rfl, ieeeSign_placeSign_add hb hlt, ieeeExponent_placeSign_add b hlt,
      ieeeSignificand_placeSign_add b hlt⟩

/-- Settles O17: the zero path drives the placed sign of the operand. -/
theorem zeroFractionGivesSignedZero : Obligations.ZeroFractionGivesSignedZero := by
  intro src
  refine ⟨fun h => ?_, fun h => ?_⟩
  · have hfraction : (extract .w32 (operand32 src).toNat).fraction = 0 := by
      rw [extract_fraction_w32, operand32_toNat]
      omega
    have hsign : (extract .w32 (operand32 src).toNat).sign = src.toNat / 2 ^ 31 % 2 := by
      rw [extract_sign_w32, operand32_toNat]
      omega
    have hlt := extract_sign_lt .w32 (operand32 src).toNat
    rw [← hsign]
    constructor
    · calc convert 0b00#2 src
          = zext64 (convIbm32Ieee32 (operand32 src)) := rfl
        _ = _ := by rw [convIbm32Ieee32_eq, pathResult32_of_fraction_eq_zero hfraction, zext64_ofNat_sign hlt]
    · calc convert 0b01#2 src
          = convIbm32Ieee64 (operand32 src) := rfl
        _ = _ := by rw [convIbm32Ieee64_eq, pathResult64_of_fraction_eq_zero hfraction]
  · have hfraction : (extract .w64 src.toNat).fraction = 0 := by rw [extract_fraction_w64, h]
    have hsign : (extract .w64 src.toNat).sign = src.toNat / 2 ^ 63 := by
      rw [extract_sign_w64, Nat.mod_eq_of_lt (by have hsrc := src.isLt; omega)]
    have hlt := extract_sign_lt .w64 src.toNat
    rw [← hsign]
    constructor
    · calc convert 0b10#2 src
          = zext64 (convIbm64Ieee32 src) := rfl
        _ = _ := by rw [convIbm64Ieee32_eq, pathResult32_of_fraction_eq_zero hfraction, zext64_ofNat_sign hlt]
    · calc convert 0b11#2 src
          = convIbm64Ieee64 src := rfl
        _ = _ := by rw [convIbm64Ieee64_eq, pathResult64_of_fraction_eq_zero hfraction]

/-- Settles O25, digit by digit. -/
theorem topDigitLookupCountsLeadingZeros : Obligations.TopDigitLookupCountsLeadingZeros :=
  fun d h1 h15 => lz4_spec d h15 h1

/-- Settles O35: the four ranges of e for a 32-bit destination are disjoint, and each names its path. -/
theorem rangeDispatchPaths : Obligations.RangeDispatchPaths := by
  intro dw zero e
  cases zero
  case true => simp
  case false =>
    cases dw
    case w64 => simp
    case w32 =>
      rcases rangeDispatch_w32_cases e with ⟨he, hpath⟩ | ⟨he, hpath⟩ | ⟨he, hpath⟩ | ⟨he, hpath⟩ <;>
        simp only [hpath, reduceCtorEq, false_or, true_and, false_iff, true_iff] <;> omega

end Sys2Proof.Machine

/-! ## Conversions to IEEE 32-bit (spec/41_to_ieee32.md)

Magnitudes of IEEE patterns and rounding to nearest even, as a matter of neighbouring patterns; both conversions as one
sum over one front end, which is the rounded pattern of the magnitude; the thresholds of overflow and underflow; the
fields of the result; the laws of sign and value, for both destinations. -/

namespace Sys2Proof.Machine

/-! ### Distances, and what a nearest integer says of its neighbours (R53) -/

/-- Squared distances differ by the distance of the two points times the distance from their midpoint, doubled. -/
theorem sq_sub_sub_sq_sub (x a b : ℚ) : (x - b) ^ 2 - (x - a) ^ 2 = (a - b) * (2 * x - (b + a)) := by
  ring

/-- The upper of two points is the nearer one exactly from the midpoint on. -/
theorem abs_sub_le_abs_sub_iff {x a b : ℚ} (h : b < a) : |x - a| ≤ |x - b| ↔ b + a ≤ 2 * x := by
  rw [← sq_le_sq, ← sub_nonneg, sq_sub_sub_sq_sub, mul_nonneg_iff_of_pos_left (sub_pos.2 h), sub_nonneg]

/-- The distances are equal exactly at the midpoint. -/
theorem abs_sub_eq_abs_sub_iff {x a b : ℚ} (h : b < a) : |x - a| = |x - b| ↔ b + a = 2 * x := by
  rw [← sq_eq_sq_iff_abs_eq_abs, eq_comm, ← sub_eq_zero, sq_sub_sub_sq_sub, mul_eq_zero_iff_left (sub_pos.2 h).ne',
    sub_eq_zero, eq_comm]

/-- The lower of two points is the nearer one exactly up to the midpoint. -/
theorem abs_sub_le_abs_sub_iff_of_gt {x a b : ℚ} (h : a < b) : |x - a| ≤ |x - b| ↔ 2 * x ≤ a + b := by
  rw [← sq_le_sq, ← sub_nonneg, sq_sub_sub_sq_sub, ← neg_mul_neg, neg_sub, neg_sub,
    mul_nonneg_iff_of_pos_left (sub_pos.2 h), sub_nonneg, add_comm]

/-- A nearest even integer is at most a half below the number, and only if it is even a half. -/
theorem NearestEvenInteger.two_mul_le {y : ℚ} {q : ℤ} (h : NearestEvenInteger y q) :
    2 * y ≤ q + (q + 1) ∧ (2 * y = q + (q + 1) → q % 2 = 0) := by
  have hlt : (q : ℚ) < (q + 1 : ℤ) := by exact_mod_cast lt_add_one q
  obtain ⟨hle, htie⟩ := h (q + 1)
  rw [abs_sub_le_abs_sub_iff_of_gt hlt] at hle
  rw [eq_comm, abs_sub_eq_abs_sub_iff hlt] at htie
  push_cast at hle htie
  exact ⟨hle, fun heq => (htie heq.symm).resolve_left (by omega)⟩

/-- A nearest even integer is at most a half above the number, and only if it is even a half. -/
theorem NearestEvenInteger.le_two_mul {y : ℚ} {q : ℤ} (h : NearestEvenInteger y q) :
    (q - 1) + q ≤ 2 * y ∧ ((q - 1) + q = 2 * y → q % 2 = 0) := by
  have hlt : ((q - 1 : ℤ) : ℚ) < q := by exact_mod_cast sub_one_lt q
  obtain ⟨hle, htie⟩ := h (q - 1)
  rw [abs_sub_le_abs_sub_iff hlt] at hle
  rw [abs_sub_eq_abs_sub_iff hlt] at htie
  push_cast at hle htie
  exact ⟨hle, fun heq => (htie heq).resolve_left (by omega)⟩

theorem nearestEvenInteger_natCast (m : Nat) : NearestEvenInteger (m : ℚ) (m : ℤ) :=
  nearestEvenInteger_of_abs_le_half (by simp) (by simp)

/-! ### Magnitudes of IEEE patterns (R36): linear between two powers of two, and strictly increasing -/

theorem infinityPattern_lt (dw : Width) : infinityPattern dw < 2 ^ (dw.bits - 1) := by
  cases dw <;> decide

/-- The step between neighbouring patterns in the binade that starts at the exponent sum `E` (R36, R55). -/
def binadeStep (dw : Width) (E : Nat) : ℚ := 2 ^ ((E : ℤ) + 1 - ieeeBias dw - significandWidth dw)

theorem binadeStep_pos (dw : Width) (E : Nat) : 0 < binadeStep dw E := by
  rw [binadeStep]
  positivity

theorem binadeStep_succ (dw : Width) (E : Nat) : binadeStep dw (E + 1) = 2 * binadeStep dw E := by
  rw [binadeStep, binadeStep, ← zpow_one_add₀ two_ne_zero]
  congr 1
  push_cast
  ring

/-- The magnitude does not read the sign bit. -/
theorem ieeeMagnitude_magnitudeBits (dw : Width) (r : Nat) :
    ieeeMagnitude dw (ieeeMagnitudeBits dw r) = ieeeMagnitude dw r := by
  have hbits : ieeeMagnitudeBits dw (ieeeMagnitudeBits dw r) = ieeeMagnitudeBits dw r := Nat.mod_mod _ _
  simp only [ieeeMagnitude, ieeeExponent_eq_div, ieeeSignificand_eq_mod, hbits]

/-- The two formulas of R36 by quotient and remainder, in steps of the binade. -/
theorem ieeeMagnitude_eq_of_lt {dw : Width} {m : Nat} (h : m < 2 ^ (dw.bits - 1)) :
    ieeeMagnitude dw m = if m / 2 ^ significandWidth dw = 0 then m * binadeStep dw 0
      else ((2 ^ significandWidth dw + m % 2 ^ significandWidth dw : Nat) : ℚ)
        * binadeStep dw (m / 2 ^ significandWidth dw - 1) := by
  have hpow : (2 : ℚ) ^ significandWidth dw ≠ 0 := by positivity
  have hscale (j : ℤ) : (2 : ℚ) ^ (j - significandWidth dw) = 2 ^ j / 2 ^ significandWidth dw := by
    rw [zpow_sub₀ two_ne_zero, zpow_natCast]
  rw [ieeeMagnitude, ieeeExponent_eq_div, ieeeSignificand_eq_mod, ieeeMagnitudeBits, Nat.mod_eq_of_lt h]
  split_ifs with hexp
  · rw [Nat.mod_eq_of_lt ((Nat.div_eq_zero_iff_lt (Nat.two_pow_pos _)).1 hexp), binadeStep, hscale]
    push_cast
    ring_nf
  · have hsum : ((m / 2 ^ significandWidth dw - 1 : Nat) : ℤ) + 1 = (m / 2 ^ significandWidth dw : Nat) := by
      exact_mod_cast Nat.sub_add_cancel (Nat.pos_of_ne_zero hexp)
    rw [binadeStep, hscale, hsum]
    push_cast
    field_simp

/-- Within a binade, its upper end included, the magnitude is the significand in steps (R36, R55). -/
theorem ieeeMagnitude_binade {dw : Width} {E M : Nat}
    (hlt : E * 2 ^ significandWidth dw + M < 2 ^ (dw.bits - 1)) (hM : M ≤ 2 ^ (significandWidth dw + 1))
    (hE : E = 0 ∨ 2 ^ significandWidth dw ≤ M) :
    ieeeMagnitude dw (E * 2 ^ significandWidth dw + M) = M * binadeStep dw E := by
  have hpos := Nat.two_pow_pos (significandWidth dw)
  rw [ieeeMagnitude_eq_of_lt hlt, Nat.mul_comm E, Nat.mul_add_div hpos, Nat.mul_add_mod]
  rw [pow_succ] at hM
  generalize 2 ^ significandWidth dw = s at *
  rcases Nat.lt_or_ge M s with hsub | hnormal
  · obtain rfl : E = 0 := hE.resolve_right (by omega)
    simp [Nat.div_eq_of_lt hsub]
  rcases hM.lt_or_eq with hin | rfl
  · have hdiv : M / s = 1 := Nat.div_eq_of_lt_le (by omega) (by omega)
    have hmod : s + M % s = M := by have hsplit := Nat.div_add_mod M s; rw [hdiv] at hsplit; omega
    rw [hdiv, hmod, if_neg (by omega), Nat.add_sub_cancel]
  · rw [Nat.mul_div_cancel_left _ hpos, Nat.mul_mod_right, if_neg (by omega), Nat.add_succ_sub_one, binadeStep_succ]
    push_cast
    ring

/-- Every pattern stands below the upper end of a binade. -/
theorem exists_binade (dw : Width) (m : Nat) : ∃ E M, m = E * 2 ^ significandWidth dw + M ∧
    M < 2 ^ (significandWidth dw + 1) ∧ (E = 0 ∨ 2 ^ significandWidth dw ≤ M) := by
  have hpos := Nat.two_pow_pos (significandWidth dw)
  have hsplit := Nat.div_add_mod m (2 ^ significandWidth dw)
  have hmod := Nat.mod_lt m hpos
  rw [pow_succ]
  cases hq : m / 2 ^ significandWidth dw with
  | zero => exact ⟨0, m, by omega, by rw [hq] at hsplit; omega, .inl rfl⟩
  | succ E =>
    refine ⟨E, 2 ^ significandWidth dw + m % 2 ^ significandWidth dw, ?_, by omega, .inr (Nat.le_add_right _ _)⟩
    rw [hq] at hsplit
    rw [← Nat.add_assoc, ← Nat.succ_mul, Nat.mul_comm]
    exact hsplit.symm

theorem ieeeMagnitude_lt_succ {dw : Width} {m : Nat} (h : m + 1 < 2 ^ (dw.bits - 1)) :
    ieeeMagnitude dw m < ieeeMagnitude dw (m + 1) := by
  obtain ⟨E, M, rfl, hM, hE⟩ := exists_binade dw m
  rw [ieeeMagnitude_binade (by omega) hM.le hE, Nat.add_assoc,
    ieeeMagnitude_binade (by omega) hM (hE.imp_right (Nat.le_succ_of_le ·))]
  exact mul_lt_mul_of_pos_right (by exact_mod_cast Nat.lt_succ_self M) (binadeStep_pos dw E)

/-- A larger pattern, up to infinity, has a larger magnitude (R36). -/
theorem ieeeMagnitude_lt {dw : Width} {a b : Nat} (hab : a < b) (hb : b < 2 ^ (dw.bits - 1)) :
    ieeeMagnitude dw a < ieeeMagnitude dw b := by
  induction b, hab using Nat.le_induction with
  | base => exact ieeeMagnitude_lt_succ hb
  | succ b _ ih => exact (ih (by omega)).trans (ieeeMagnitude_lt_succ hb)

theorem ieeeMagnitude_le {dw : Width} {a b : Nat} (hab : a ≤ b) (hb : b < 2 ^ (dw.bits - 1)) :
    ieeeMagnitude dw a ≤ ieeeMagnitude dw b := by
  rcases hab.eq_or_lt with rfl | hlt
  · exact le_rfl
  · exact (ieeeMagnitude_lt hlt hb).le

@[simp] theorem ieeeMagnitude_zero (dw : Width) : ieeeMagnitude dw 0 = 0 := by
  simpa using ieeeMagnitude_binade (dw := dw) (E := 0) (M := 0) (by simp) (Nat.zero_le _) (.inl rfl)

/-! ### Rounding to nearest even (R68): a matter of the two neighbours, and monotone -/

/-- A pattern is the rounded one if and only if the number lies between the midpoints to the two neighbouring patterns,
and at such a midpoint only if the pattern is even. -/
theorem roundsToNearestEven_iff_neighbours {dw : Width} {x : ℚ} {m : Nat} :
    RoundsToNearestEven dw x m ↔ m ≤ infinityPattern dw ∧
      (∀ k, k + 1 = m → ieeeMagnitude dw k + ieeeMagnitude dw m ≤ 2 * x ∧
        (ieeeMagnitude dw k + ieeeMagnitude dw m = 2 * x → m % 2 = 0)) ∧
      (m < infinityPattern dw → 2 * x ≤ ieeeMagnitude dw m + ieeeMagnitude dw (m + 1) ∧
        (2 * x = ieeeMagnitude dw m + ieeeMagnitude dw (m + 1) → m % 2 = 0)) := by
  have hinf := infinityPattern_lt dw
  constructor
  · rintro ⟨hle, hall⟩
    refine ⟨hle, fun k hk => ?_, fun hm => ?_⟩
    · obtain ⟨hnear, htie⟩ := hall k (by omega)
      have hlt : ieeeMagnitude dw k < ieeeMagnitude dw m := ieeeMagnitude_lt (by omega) (by omega)
      rw [abs_sub_le_abs_sub_iff hlt] at hnear
      rw [abs_sub_eq_abs_sub_iff hlt] at htie
      exact ⟨hnear, fun heq => (htie heq).resolve_left (by omega)⟩
    · obtain ⟨hnear, htie⟩ := hall (m + 1) hm
      have hlt : ieeeMagnitude dw m < ieeeMagnitude dw (m + 1) := ieeeMagnitude_lt (by omega) (by omega)
      rw [abs_sub_le_abs_sub_iff_of_gt hlt] at hnear
      rw [eq_comm, abs_sub_eq_abs_sub_iff hlt] at htie
      exact ⟨hnear, fun heq => (htie heq.symm).resolve_left (by omega)⟩
  · rintro ⟨hle, hdown, hup⟩
    refine ⟨hle, fun k hk => ?_⟩
    rcases lt_trichotomy k m with hkm | rfl | hmk
    · obtain ⟨hnear, htie⟩ := hdown (m - 1) (by omega)
      have hlt : ieeeMagnitude dw k < ieeeMagnitude dw m := ieeeMagnitude_lt hkm (by omega)
      have hpred : ieeeMagnitude dw k ≤ ieeeMagnitude dw (m - 1) := ieeeMagnitude_le (by omega) (by omega)
      rw [abs_sub_le_abs_sub_iff hlt, abs_sub_eq_abs_sub_iff hlt]
      exact ⟨by linarith, fun heq => .inr (htie (by linarith))⟩
    · exact ⟨le_rfl, fun _ => .inl rfl⟩
    · obtain ⟨hnear, htie⟩ := hup (by omega)
      have hlt : ieeeMagnitude dw m < ieeeMagnitude dw k := ieeeMagnitude_lt hmk (by omega)
      have hsucc : ieeeMagnitude dw (m + 1) ≤ ieeeMagnitude dw k := ieeeMagnitude_le hmk (by omega)
      rw [abs_sub_le_abs_sub_iff_of_gt hlt, eq_comm, abs_sub_eq_abs_sub_iff hlt]
      exact ⟨by linarith, fun heq => .inr (htie (by linarith))⟩

/-- A larger number never rounds to a smaller pattern (R68 (c)): the only patterns that share a midpoint are neighbours,
and of these one is odd. -/
theorem RoundsToNearestEven.mono {dw : Width} {x y : ℚ} {m n : Nat} (hm : RoundsToNearestEven dw x m)
    (hn : RoundsToNearestEven dw y n) (hxy : x ≤ y) : m ≤ n := by
  by_contra! hnm
  have hinf := infinityPattern_lt dw
  obtain ⟨hmle, hmdown, -⟩ := roundsToNearestEven_iff_neighbours.1 hm
  obtain ⟨-, -, hnup⟩ := roundsToNearestEven_iff_neighbours.1 hn
  obtain ⟨hmnear, hmtie⟩ := hmdown (m - 1) (by omega)
  obtain ⟨hnnear, hntie⟩ := hnup (by omega)
  have hpred : ieeeMagnitude dw n ≤ ieeeMagnitude dw (m - 1) := ieeeMagnitude_le (by omega) (by omega)
  rcases Nat.lt_or_ge (n + 1) m with hgap | hadj
  · have hsucc : ieeeMagnitude dw (n + 1) < ieeeMagnitude dw m := ieeeMagnitude_lt hgap (by omega)
    linarith
  · obtain rfl : m = n + 1 := by omega
    have hmeven := hmtie (by linarith)
    have hneven := hntie (by linarith)
    omega

/-- The magnitude of a pattern rounds to that pattern. -/
theorem roundsToNearestEven_ieeeMagnitude {dw : Width} {m : Nat} (h : m ≤ infinityPattern dw) :
    RoundsToNearestEven dw (ieeeMagnitude dw m) m := by
  have hinf := infinityPattern_lt dw
  refine roundsToNearestEven_iff_neighbours.2 ⟨h, fun k hk => ?_, fun hm => ?_⟩
  · have hlt : ieeeMagnitude dw k < ieeeMagnitude dw m := ieeeMagnitude_lt (by omega) (by omega)
    exact ⟨by linarith, fun heq => by linarith⟩
  · have hlt : ieeeMagnitude dw m < ieeeMagnitude dw (m + 1) := ieeeMagnitude_lt (by omega) (by omega)
    exact ⟨by linarith, fun heq => by linarith⟩

/-- From infinity's magnitude on every number rounds to infinity (log entry 9). -/
theorem roundsToNearestEven_infinity {dw : Width} {x : ℚ} (h : ieeeMagnitude dw (infinityPattern dw) ≤ x) :
    RoundsToNearestEven dw x (infinityPattern dw) := by
  refine roundsToNearestEven_iff_neighbours.2 ⟨le_rfl, fun k hk => ?_, fun hlt => absurd hlt (lt_irrefl _)⟩
  have hlt : ieeeMagnitude dw k < ieeeMagnitude dw (infinityPattern dw) :=
    ieeeMagnitude_lt (by omega) (infinityPattern_lt dw)
  exact ⟨by linarith, fun heq => by linarith⟩

/-- Rounding the significand of a binade to the nearest even integer rounds the number to the nearest even pattern: on
either side of `M` the neighbouring pattern is one step away, or on the far side of it from the number (R55, R68). -/
theorem roundsToNearestEven_binade {dw : Width} {E M : Nat} {y : ℚ}
    (hle : E * 2 ^ significandWidth dw + M ≤ infinityPattern dw) (hM : M ≤ 2 ^ (significandWidth dw + 1))
    (hyhi : y ≤ 2 ^ (significandWidth dw + 1))
    (hE : E = 0 ∨ 2 ^ significandWidth dw ≤ M ∧ 2 ^ significandWidth dw ≤ y)
    (hy : NearestEvenInteger y (M : ℤ)) :
    RoundsToNearestEven dw (y * binadeStep dw E) (E * 2 ^ significandWidth dw + M) := by
  have hinf := infinityPattern_lt dw
  have hstep := binadeStep_pos dw E
  have hparity : (M : ℤ) % 2 = 0 → (E * 2 ^ significandWidth dw + M) % 2 = 0 := by
    cases dw <;> simp only [significandWidth] <;> omega
  have hmag := ieeeMagnitude_binade (by omega) hM (hE.imp_right And.left)
  obtain ⟨hup, huptie⟩ := hy.two_mul_le
  obtain ⟨hdown, hdowntie⟩ := hy.le_two_mul
  push_cast at hup huptie hdown hdowntie
  refine roundsToNearestEven_iff_neighbours.2 ⟨hle, fun k hk => ?_, fun hm => ?_⟩
  · by_cases hin : 1 ≤ M ∧ (E = 0 ∨ 2 ^ significandWidth dw ≤ M - 1)
    · have hk' : k = E * 2 ^ significandWidth dw + (M - 1) := by omega
      have hpred := ieeeMagnitude_binade (dw := dw) (E := E) (M := M - 1) (by omega) (by omega) hin.2
      rw [Nat.cast_sub hin.1, Nat.cast_one] at hpred
      rw [hk', hpred, hmag, ← add_mul, ← mul_assoc]
      exact ⟨mul_le_mul_of_nonneg_right hdown hstep.le,
        fun heq => hparity (hdowntie (mul_right_cancel₀ hstep.ne' heq))⟩
    · have hMy : (M : ℚ) ≤ y := by
        rcases hE with rfl | ⟨hMlo, hylo⟩
        · obtain rfl : M = 0 := by omega
          omega
        · have hMeq : M = 2 ^ significandWidth dw := by omega
          rw [hMeq]
          exact_mod_cast hylo
      have hlt : ieeeMagnitude dw k < ieeeMagnitude dw (E * 2 ^ significandWidth dw + M) :=
        ieeeMagnitude_lt (by omega) (by omega)
      have hxm := mul_le_mul_of_nonneg_right hMy hstep.le
      rw [hmag] at hlt ⊢
      exact ⟨by linarith, fun heq => by linarith⟩
  · rcases hM.lt_or_eq with hin | htop
    · rw [Nat.add_assoc, ieeeMagnitude_binade (by omega) hin (hE.imp_right fun h => by omega), hmag, ← add_mul,
        ← mul_assoc]
      push_cast
      exact ⟨mul_le_mul_of_nonneg_right hup hstep.le,
        fun heq => hparity (huptie (mul_right_cancel₀ hstep.ne' heq))⟩
    · have hyM : y ≤ M := by rw [htop]; exact_mod_cast hyhi
      have hlt := ieeeMagnitude_lt_succ (dw := dw) (m := E * 2 ^ significandWidth dw + M) (by omega)
      have hxm := mul_le_mul_of_nonneg_right hyM hstep.le
      rw [hmag] at hlt ⊢
      exact ⟨by linarith, fun heq => by linarith⟩

/-! ### Rounding unit: when it gives nothing, and when it carries (R53) -/

/-- Up to half of the last place kept, the unit gives 0: at the half the quotient 0 is even. -/
theorem rneShr_eq_zero {x m : Nat} (h : x ≤ 2 ^ m) : rneShr x (m + 1) = 0 := by
  have hlt : x < 2 ^ (m + 1) := h.trans_lt (Nat.pow_lt_pow_right (by decide) (Nat.lt_succ_self m))
  have hdown : roundsUp x (m + 1) = false := by
    rw [Bool.eq_false_iff, Ne, roundsUp_succ_iff, Nat.mod_eq_of_lt hlt, Nat.div_eq_of_lt hlt]
    omega
  rw [rneShr_eq, hdown, Nat.div_eq_of_lt hlt, Bool.toNat_false]

/-- The carry out of `j` retained bits comes exactly from half of the last place kept below the top on: there the
quotient is all ones, so that a tie has odd parity. -/
theorem rneShr_eq_two_pow_iff {x m j : Nat} (hj : 1 ≤ j) (h : x < 2 ^ (m + 1 + j)) :
    rneShr x (m + 1) = 2 ^ j ↔ 2 ^ (m + 1 + j) - 2 ^ m ≤ x := by
  have hodd : 2 ∣ 2 ^ j := dvd_pow_self 2 (by omega)
  have hup := roundsUp_succ_iff x m
  have hsplit := Nat.div_add_mod x (2 ^ (m + 1))
  have hmod := Nat.mod_lt x (Nat.two_pow_pos (m + 1))
  have hquot : x / 2 ^ (m + 1) < 2 ^ j := Nat.div_lt_of_lt_mul (by rwa [← pow_add])
  have hwhole : 2 ^ (m + 1 + j) = 2 ^ (m + 1) * (2 ^ j - 1) + 2 ^ (m + 1) := by
    rw [pow_add, Nat.mul_sub_one, Nat.sub_add_cancel (Nat.le_mul_of_pos_right _ (Nat.two_pow_pos j))]
  have hdouble : 2 ^ (m + 1) = 2 * 2 ^ m := pow_succ' 2 m
  rw [rneShr_eq, hwhole]
  generalize x / 2 ^ (m + 1) = q at *
  generalize x % 2 ^ (m + 1) = r at *
  constructor
  · intro hcarry
    have hdecide := Bool.toNat_le (roundsUp x (m + 1))
    obtain rfl : q = 2 ^ j - 1 := by omega
    have hroundsUp : roundsUp x (m + 1) = true := Bool.toNat_eq_one.1 (by omega)
    have hhalf := hup.1 hroundsUp
    omega
  · intro hle
    obtain rfl : q = 2 ^ j - 1 := by
      by_contra hne
      have hnext := Nat.mul_le_mul_left (2 ^ (m + 1)) (show q + 1 ≤ 2 ^ j - 1 by omega)
      rw [Nat.mul_add_one] at hnext
      omega
    rw [hup.2 (by omega), Bool.toNat_true, Nat.sub_add_cancel (Nat.two_pow_pos j)]

/-- Halving an even number needs no rounding (R66). -/
theorem rneShr_one_of_even {x : Nat} (h : x % 2 = 0) : rneShr x 1 = x / 2 := by
  have hdown : roundsUp x 1 = false := by
    rw [Bool.eq_false_iff, Ne, roundsUp_succ_iff]
    omega
  rw [rneShr_eq, hdown, pow_one, Bool.toNat_false, Nat.add_zero]

/-- The rounding shift with its case n = 0, where nothing is cut off and the rounding unit is not used (R54, R60). -/
def roundOff (x n : Nat) : Nat := if n = 0 then x else rneShr x n

@[simp] theorem roundOff_zero (x : Nat) : roundOff x 0 = x := rfl

theorem roundOff_of_pos (x : Nat) {n : Nat} (hn : 1 ≤ n) : roundOff x n = rneShr x n := if_neg (by omega)

theorem roundOff_nearestEven (x n : Nat) : NearestEvenInteger ((x : ℚ) / 2 ^ n) (roundOff x n : ℤ) := by
  rcases Nat.eq_zero_or_pos n with rfl | hn
  · simpa using nearestEvenInteger_natCast x
  · rw [roundOff_of_pos x hn]
    exact rneShr_nearestEven x hn

theorem roundOff_le_two_pow {x n j : Nat} (h : x < 2 ^ (n + j)) : roundOff x n ≤ 2 ^ j := by
  rcases Nat.eq_zero_or_pos n with rfl | hn
  · rw [roundOff_zero]
    simpa using h.le
  · rw [roundOff_of_pos x hn]
    exact rneShr_le_two_pow h le_rfl

theorem two_pow_le_roundOff {x n j : Nat} (h : 2 ^ (n + j) ≤ x) : 2 ^ j ≤ roundOff x n := by
  rcases Nat.eq_zero_or_pos n with rfl | hn
  · simpa using h
  · rw [roundOff_of_pos x hn]
    exact two_pow_le_rneShr h

/-! ### A conversion to 32 bits as one sum: the placed sign and the magnitude bits (R55, R59, R62) -/

/-- The bits of N beyond the 24 of the destination: the shift of the normal path, 0 or 32 (R49). -/
def excessBits (sw : Width) : Nat := fractionWidth sw - 24

theorem fractionWidth_eq_excessBits (sw : Width) : fractionWidth sw = excessBits sw + 24 := by
  cases sw <;> rfl

/-- M: N rounded by the shift of the normal path, which is larger by -e on the subnormal path (R59, R62). -/
def significand32 (sw : Width) (f : FrontEnd) : Nat := roundOff f.norm (excessBits sw + (-f.e).toNat)

/-- The result without its sign. Below e = 0 the exponent term is 0, and below e = -32 so is M. -/
def magnitude32 (sw : Width) (f : FrontEnd) : Nat :=
  if f.zero then 0
  else if 254 ≤ f.e then infinityPattern .w32
  else f.e.toNat * 2 ^ 23 + significand32 sw f

section Significand
variable {sw : Width} {f : FrontEnd} (hnorm : f.norm < 2 ^ fractionWidth sw)
include hnorm

theorem significand32_le : significand32 sw f ≤ 2 ^ 24 := by
  refine roundOff_le_two_pow (hnorm.trans_le (Nat.pow_le_pow_right two_pos ?_))
  rw [fractionWidth_eq_excessBits]
  omega

theorem significand32_le_of_neg (he : f.e < 0) : significand32 sw f ≤ 2 ^ 23 := by
  refine roundOff_le_two_pow (hnorm.trans_le (Nat.pow_le_pow_right two_pos ?_))
  rw [fractionWidth_eq_excessBits]
  omega

/-- From e = -25 down N is at most half of the last place kept (R65, R67). -/
theorem significand32_eq_zero (he : f.e ≤ -25) : significand32 sw f = 0 := by
  obtain ⟨m, hm⟩ : ∃ m, excessBits sw + (-f.e).toNat = m + 1 := ⟨excessBits sw + (-f.e).toNat - 1, by omega⟩
  rw [significand32, hm, roundOff_of_pos _ (Nat.succ_pos m)]
  refine rneShr_eq_zero (hnorm.le.trans (Nat.pow_le_pow_right two_pos ?_))
  rw [fractionWidth_eq_excessBits]
  omega

theorem magnitude32_le : magnitude32 sw f ≤ infinityPattern .w32 := by
  have hle := significand32_le hnorm
  rw [magnitude32, infinityPattern_w32]
  split_ifs <;> omega

/-- The five paths give the placed sign plus the magnitude bits, with no bit lost (R55, R56). -/
theorem pathResult32_eq {b mNormal mSubnormal : Nat} (hsgn : f.sgn = placeSign .w32 b) (hb : b ≤ 1)
    (hmNormal : 0 ≤ f.e → mNormal = significand32 sw f) (hmSubnormal : f.e < 0 → mSubnormal = significand32 sw f) :
    pathResult32 f mNormal mSubnormal = f.sgn + magnitude32 sw f := by
  have hlt : magnitude32 sw f < 2 ^ 31 := (magnitude32_le hnorm).trans_lt (infinityPattern_lt .w32)
  rw [hsgn]
  unfold magnitude32 at hlt ⊢
  cases hz : f.zero
  case true => simp [pathResult32_of_zero _ _ hz, hsgn]
  case false =>
    simp only [hz, Bool.false_eq_true, if_false] at hlt ⊢
    rcases lt_or_ge f.e (-32) with hunder | hsub
    · rw [pathResult32_of_underflow _ _ hz hunder, hsgn, if_neg (by omega), significand32_eq_zero hnorm (by omega),
        Int.toNat_of_nonpos (by omega)]
      rfl
    rcases lt_or_ge f.e 0 with hneg | h0
    · rw [if_neg (by omega), Int.toNat_of_nonpos hneg.le, Nat.zero_mul, Nat.zero_add] at hlt ⊢
      rw [pathResult32_of_subnormal _ _ hz hsub hneg, hsgn, hmSubnormal hneg, assembleSubnormal_eq hb hlt]
    rcases lt_or_ge f.e 254 with hfin | hover
    · rw [if_neg (by omega)] at hlt ⊢
      rw [pathResult32_of_normal _ _ hz h0 hfin, hsgn, hmNormal h0, assembleNormal_eq hb hlt]
      rfl
    · rw [pathResult32_of_overflow _ _ hz hover, hsgn, if_pos hover]
      exact Nat.mod_eq_of_lt (placeSign_add_lt hb (infinityPattern_lt .w32))

end Significand

theorem front_norm_lt (sw dw : Width) (p : Nat) : (front sw dw p).norm < 2 ^ fractionWidth sw := by
  by_cases h : (extract sw p).fraction = 0
  · rw [front_of_zero dw h]
    exact Nat.two_pow_pos _
  · exact (front_norm_bounds dw h).2

/-- The result of a conversion to 32 bits: the placed sign and the magnitude bits. -/
def result32 (sw : Width) (p : Nat) : Nat := (front sw .w32 p).sgn + magnitude32 sw (front sw .w32 p)

section Result
variable (sw : Width) (p : Nat)

theorem magnitude32_front_lt : magnitude32 sw (front sw .w32 p) < 2 ^ 31 :=
  (magnitude32_le (front_norm_lt sw .w32 p)).trans_lt (infinityPattern_lt .w32)

theorem result32_lt : result32 sw p < 2 ^ 32 := by
  rw [result32, front_sgn]
  exact placeSign_add_lt (Nat.le_of_lt_succ (extract_sign_lt sw p)) (magnitude32_front_lt sw p)

theorem ieeeMagnitudeBits_result32 :
    ieeeMagnitudeBits .w32 (result32 sw p) = magnitude32 sw (front sw .w32 p) := by
  rw [result32, front_sgn]
  exact ieeeMagnitudeBits_of_lt _ (magnitude32_front_lt sw p)

theorem ieeeSign_result32 : ieeeSign .w32 (result32 sw p) = (extract sw p).sign := by
  rw [result32, front_sgn]
  exact ieeeSign_placeSign_add (Nat.le_of_lt_succ (extract_sign_lt sw p)) (magnitude32_front_lt sw p)

theorem ieeeExponent_result32 : ieeeExponent .w32 (result32 sw p) = magnitude32 sw (front sw .w32 p) / 2 ^ 23 := by
  rw [ieeeExponent_eq_div, ieeeMagnitudeBits_result32]
  rfl

theorem ieeeSignificand_result32 :
    ieeeSignificand .w32 (result32 sw p) = magnitude32 sw (front sw .w32 p) % 2 ^ 23 := by
  rw [ieeeSignificand_eq_mod, ieeeMagnitudeBits_result32]
  rfl

end Result

/-! ### The shift of each path: n is 0, -e, 32 or 32 - e (R59, R62) -/

section Shift
variable {f : FrontEnd}

theorem significand32_w32_of_normal (h0 : 0 ≤ f.e) : significand32 .w32 f = f.norm := by
  rw [significand32, Int.toNat_of_nonpos (Int.neg_nonpos_of_nonneg h0)]
  rfl

theorem significand32_w32_of_neg (hneg : f.e < 0) : significand32 .w32 f = rneShr f.norm (-f.e).toNat := by
  have hn : excessBits .w32 + (-f.e).toNat = (-f.e).toNat := Nat.zero_add _
  rw [significand32, hn, roundOff_of_pos _ (by omega)]

theorem significand32_w64_of_normal (h0 : 0 ≤ f.e) : significand32 .w64 f = rneShr f.norm 32 := by
  rw [significand32, Int.toNat_of_nonpos (Int.neg_nonpos_of_nonneg h0)]
  rfl

theorem significand32_w64_of_neg (hneg : f.e < 0) : significand32 .w64 f = rneShr f.norm (32 - f.e).toNat := by
  have hn : excessBits .w64 + (-f.e).toNat = (32 - f.e).toNat := by
    have hexcess : excessBits .w64 = 32 := rfl
    omega
  rw [significand32, hn, roundOff_of_pos _ (by omega)]

end Shift

theorem ofNat_pathResult32_toNat {sw : Width} {p mNormal mSubnormal : Nat}
    (hmNormal : 0 ≤ (front sw .w32 p).e → mNormal = significand32 sw (front sw .w32 p))
    (hmSubnormal : (front sw .w32 p).e < 0 → mSubnormal = significand32 sw (front sw .w32 p)) :
    (BitVec.ofNat 32 (pathResult32 (front sw .w32 p) mNormal mSubnormal)).toNat = result32 sw p := by
  rw [pathResult32_eq (front_norm_lt sw .w32 p) (front_sgn ..) (Nat.le_of_lt_succ (extract_sign_lt sw p)) hmNormal
    hmSubnormal, BitVec.toNat_ofNat]
  exact Nat.mod_eq_of_lt (result32_lt sw p)

theorem convIbm32Ieee32_toNat (p : BitVec 32) : (convIbm32Ieee32 p).toNat = result32 .w32 p.toNat := by
  rw [convIbm32Ieee32_eq]
  exact ofNat_pathResult32_toNat (fun h0 => (significand32_w32_of_normal h0).symm)
    (fun hneg => (significand32_w32_of_neg hneg).symm)

theorem convIbm64Ieee32_toNat (p : BitVec 64) : (convIbm64Ieee32 p).toNat = result32 .w64 p.toNat := by
  rw [convIbm64Ieee32_eq]
  exact ofNat_pathResult32_toNat (fun h0 => (significand32_w64_of_normal h0).symm)
    (fun hneg => (significand32_w64_of_neg hneg).symm)

/-! ### The magnitude of an IBM pattern, and its rounded pattern (R32, R49, R68) -/

theorem ibmMagnitude_of_fraction_eq_zero {sw : Width} {p : Nat} (h : (extract sw p).fraction = 0) :
    ibmMagnitude sw p = 0 := by
  rw [ibmMagnitude, h]
  simp

/-- Which powers of two the magnitude reaches: N has its top bit at bit WF - 1, so e tells (R49). -/
theorem two_zpow_le_ibmMagnitude_iff {sw : Width} (dw : Width) {p : Nat} (h : (extract sw p).fraction ≠ 0) (j : ℤ) :
    2 ^ j ≤ ibmMagnitude sw p ↔ j ≤ (front sw dw p).e - rebiasConstant dw - 257 := by
  obtain ⟨hlo, hhi⟩ := front_norm_bounds dw h
  rw [ibmMagnitude_eq_norm dw h]
  have hloQ : (2 : ℚ) ^ ((fractionWidth sw : ℤ) - 1) ≤ (front sw dw p).norm := by
    have hwidth : (fractionWidth sw : ℤ) - 1 = (fractionWidth sw - 1 : Nat) := by cases sw <;> rfl
    rw [hwidth, zpow_natCast]
    exact_mod_cast hlo
  have hhiQ : ((front sw dw p).norm : ℚ) < 2 ^ (fractionWidth sw : ℤ) := by
    rw [zpow_natCast]
    exact_mod_cast hhi
  generalize (front sw dw p).e - rebiasConstant dw = e
  have hscale : (0 : ℚ) < 2 ^ (e - 256 - (fractionWidth sw : ℤ)) := by positivity
  constructor
  · intro hj
    have hlt := hj.trans_lt (mul_lt_mul_of_pos_right hhiQ hscale)
    rw [← zpow_add₀ two_ne_zero, zpow_lt_zpow_iff_right₀ one_lt_two] at hlt
    omega
  · intro hj
    refine le_trans ?_ (mul_le_mul_of_nonneg_right hloQ hscale.le)
    rw [← zpow_add₀ two_ne_zero, zpow_le_zpow_iff_right₀ one_lt_two]
    omega

/-- In units of the binade the magnitude is N over the power of two that the rounding shift takes off (R49, R65). -/
theorem ibmMagnitude_eq_quotient {sw : Width} {p : Nat} (h : (extract sw p).fraction ≠ 0) :
    ibmMagnitude sw p = ((front sw .w32 p).norm : ℚ) / 2 ^ (excessBits sw + (-(front sw .w32 p).e).toNat)
      * binadeStep .w32 (front sw .w32 p).e.toNat := by
  have hparts := Int.toNat_sub_toNat_neg (front sw .w32 p).e
  rw [ibmMagnitude_eq_norm .w32 h, binadeStep, div_mul_eq_mul_div, mul_div_assoc, ← zpow_natCast (2 : ℚ),
    ← zpow_sub₀ two_ne_zero]
  congr 2
  simp only [rebiasConstant, ieeeBias, significandWidth, fractionWidth_eq_excessBits]
  omega

/-- M is the nearest integer to N over the power of two of the rounding shift (R63, R65). -/
theorem significand32_nearestEven (sw : Width) (f : FrontEnd) :
    NearestEvenInteger ((f.norm : ℚ) / 2 ^ (excessBits sw + (-f.e).toNat)) (significand32 sw f : ℤ) :=
  roundOff_nearestEven _ _

section Rounded
variable {sw : Width} {p : Nat} (h : (extract sw p).fraction ≠ 0)
include h

theorem two_pow_le_significand32 (h0 : 0 ≤ (front sw .w32 p).e) : 2 ^ 23 ≤ significand32 sw (front sw .w32 p) := by
  refine two_pow_le_roundOff ((Nat.pow_le_pow_right two_pos ?_).trans (front_norm_bounds .w32 h).1)
  rw [fractionWidth_eq_excessBits]
  omega

theorem front_zero_eq_false (dw : Width) : (front sw dw p).zero = false := by
  rw [front_of_ne_zero dw h]

theorem magnitude32_of_lt (he : (front sw .w32 p).e < 254) :
    magnitude32 sw (front sw .w32 p) =
      (front sw .w32 p).e.toNat * 2 ^ 23 + significand32 sw (front sw .w32 p) := by
  rw [magnitude32, front_zero_eq_false h, if_neg Bool.false_ne_true, if_neg (not_le.2 he)]

theorem magnitude32_of_overflow (he : 254 ≤ (front sw .w32 p).e) :
    magnitude32 sw (front sw .w32 p) = infinityPattern .w32 := by
  rw [magnitude32, front_zero_eq_false h, if_neg Bool.false_ne_true, if_pos he]

end Rounded

theorem magnitude32_of_fraction_eq_zero {sw : Width} {p : Nat} (h : (extract sw p).fraction = 0) :
    magnitude32 sw (front sw .w32 p) = 0 := by
  rw [magnitude32, if_pos ((front_zero_iff sw .w32 p).2 h)]

/-- The infinity pattern is compared as 2^128 (log entry 9). -/
theorem ieeeMagnitude_infinity_w32 : ieeeMagnitude .w32 (infinityPattern .w32) = 2 ^ 128 := by
  have hbinade := ieeeMagnitude_binade (dw := .w32) (E := 253) (M := 2 ^ 24) (by decide) le_rfl (.inr (by decide))
  refine hbinade.trans ?_
  norm_num [binadeStep, ieeeBias, significandWidth]

/-- The magnitude bits are the correctly rounded pattern of the magnitude (R68 (a)). -/
theorem magnitude32_rounds (sw : Width) (p : Nat) :
    RoundsToNearestEven .w32 (ibmMagnitude sw p) (magnitude32 sw (front sw .w32 p)) := by
  by_cases h : (extract sw p).fraction = 0
  · rw [ibmMagnitude_of_fraction_eq_zero h, magnitude32_of_fraction_eq_zero h]
    simpa using roundsToNearestEven_ieeeMagnitude (dw := .w32) (Nat.zero_le _)
  rcases lt_or_ge (front sw .w32 p).e 254 with hfin | hover
  · have hnorm := front_norm_lt sw .w32 p
    have hbits := magnitude32_of_lt h hfin
    rw [ibmMagnitude_eq_quotient h, hbits]
    refine roundsToNearestEven_binade (hbits ▸ magnitude32_le hnorm) (significand32_le hnorm) ?_ ?_
      (significand32_nearestEven sw _)
    · rw [div_le_iff₀ (by positivity), ← pow_add]
      have hwidth : 2 ^ fractionWidth sw ≤ 2 ^ (24 + (excessBits sw + (-(front sw .w32 p).e).toNat)) :=
        Nat.pow_le_pow_right two_pos (by rw [fractionWidth_eq_excessBits]; omega)
      exact_mod_cast hnorm.le.trans hwidth
    · refine or_iff_not_imp_left.2 fun hE => ?_
      have h0 : 0 ≤ (front sw .w32 p).e := by omega
      refine ⟨two_pow_le_significand32 h h0, ?_⟩
      rw [le_div_iff₀ (by positivity), ← pow_add]
      have hwidth : 2 ^ (23 + (excessBits sw + (-(front sw .w32 p).e).toNat)) ≤ 2 ^ (fractionWidth sw - 1) :=
        Nat.pow_le_pow_right two_pos (by rw [fractionWidth_eq_excessBits]; omega)
      exact_mod_cast hwidth.trans (front_norm_bounds .w32 h).1
  · rw [magnitude32_of_overflow h hover]
    refine roundsToNearestEven_infinity ?_
    rw [ieeeMagnitude_infinity_w32, ← zpow_ofNat, two_zpow_le_ibmMagnitude_iff .w32 h]
    simp only [rebiasConstant]
    omega

/-! ### Thresholds of rounding to 32 bits (R61, R64, R67) -/

theorem binadeStep_w32_zero : binadeStep .w32 0 = 2 ^ (-149 : ℤ) := rfl

theorem ieeeMagnitude_one_w32 : ieeeMagnitude .w32 1 = 2 ^ (-149 : ℤ) := by
  have hbinade := ieeeMagnitude_binade (dw := .w32) (E := 0) (M := 1) (by decide) (by decide) (.inl rfl)
  simpa [binadeStep_w32_zero] using hbinade

theorem ieeeMagnitude_largest_finite_w32 : ieeeMagnitude .w32 0x7F7FFFFF = (2 - 1 / 2 ^ 23) * 2 ^ 127 := by
  have hbinade := ieeeMagnitude_binade (dw := .w32) (E := 253) (M := 2 ^ 24 - 1) (by decide) (by decide)
    (.inr (by decide))
  refine hbinade.trans ?_
  norm_num [binadeStep, ieeeBias, significandWidth]

/-- 2^-150 is a tie between 0 and the smallest subnormal, and goes to the even 0 (R67). -/
theorem roundsToNearestEven_w32_zero : RoundsToNearestEven .w32 (2 ^ (-150 : ℤ)) 0 := by
  refine roundsToNearestEven_iff_neighbours.2
    ⟨by decide, fun k hk => by omega, fun _ => ⟨le_of_eq ?_, fun _ => rfl⟩⟩
  rw [ieeeMagnitude_zero, ieeeMagnitude_one_w32]
  norm_num

/-- The midpoint below 2^128 is a tie between the odd largest finite pattern and infinity (R64). -/
theorem roundsToNearestEven_w32_midpoint :
    RoundsToNearestEven .w32 ((2 - 1 / 2 ^ 24) * 2 ^ 127) 0x7F800000 := by
  refine roundsToNearestEven_iff_neighbours.2
    ⟨by decide, fun k hk => ⟨le_of_eq ?_, fun _ => rfl⟩, fun hlt => absurd hlt (by decide)⟩
  obtain rfl : k = 0x7F7FFFFF := by omega
  rw [ieeeMagnitude_largest_finite_w32, ← infinityPattern_w32, ieeeMagnitude_infinity_w32]
  norm_num

section Thresholds
variable {x : ℚ} {m : Nat} (h : RoundsToNearestEven .w32 x m)
include h

/-- Exactly the magnitudes up to 2^-150 go to zero (R67). -/
theorem RoundsToNearestEven.eq_zero_iff_w32 : m = 0 ↔ x ≤ 2 ^ (-150 : ℤ) := by
  constructor
  · rintro rfl
    obtain ⟨-, -, hup⟩ := roundsToNearestEven_iff_neighbours.1 h
    obtain ⟨hnear, -⟩ := hup (by decide)
    rw [ieeeMagnitude_zero, ieeeMagnitude_one_w32] at hnear
    norm_num at hnear ⊢
    linarith
  · exact fun hx => Nat.le_zero.1 (h.mono roundsToNearestEven_w32_zero hx)

/-- The smallest subnormal takes what lies above 2^-150 up to 2^-149 (R67). -/
theorem RoundsToNearestEven.eq_one_w32 (hlo : 2 ^ (-150 : ℤ) < x) (hhi : x ≤ 2 ^ (-149 : ℤ)) : m = 1 := by
  have hle := h.mono (roundsToNearestEven_ieeeMagnitude (m := 1) (by decide)) (hhi.trans_eq ieeeMagnitude_one_w32.symm)
  have hne : m ≠ 0 := h.eq_zero_iff_w32.not.2 (not_le.2 hlo)
  omega

/-- Exactly the magnitudes from the midpoint on go to infinity (R64). -/
theorem RoundsToNearestEven.eq_infinity_iff_w32 : m = 0x7F800000 ↔ (2 - 1 / 2 ^ 24) * 2 ^ 127 ≤ x := by
  constructor
  · rintro rfl
    obtain ⟨-, hdown, -⟩ := roundsToNearestEven_iff_neighbours.1 h
    obtain ⟨hnear, -⟩ := hdown 0x7F7FFFFF rfl
    rw [ieeeMagnitude_largest_finite_w32, ← infinityPattern_w32, ieeeMagnitude_infinity_w32] at hnear
    linarith
  · exact fun hx => le_antisymm (h.1.trans_eq infinityPattern_w32) (roundsToNearestEven_w32_midpoint.mono h hx)

/-- From the largest finite value up to the midpoint, the midpoint left out, the result is that value (R64). -/
theorem RoundsToNearestEven.eq_largest_finite_w32 (hlo : (2 - 1 / 2 ^ 23) * 2 ^ 127 ≤ x)
    (hhi : x < (2 - 1 / 2 ^ 24) * 2 ^ 127) : m = 0x7F7FFFFF := by
  have hge := (roundsToNearestEven_ieeeMagnitude (dw := .w32) (m := 0x7F7FFFFF) (by decide)).mono h
    (ieeeMagnitude_largest_finite_w32.trans_le hlo)
  have hne : m ≠ 0x7F800000 := h.eq_infinity_iff_w32.not.2 (not_le.2 hhi)
  have hle := h.1.trans_eq infinityPattern_w32
  omega

end Thresholds

/-! ### Where the paths to 32 bits begin (R61, R65, R67) -/

/-- The overflow path begins at 2^128 (R61, R64). -/
theorem overflow_iff_two_pow_128_le (sw : Width) (p : Nat) :
    254 ≤ (front sw .w32 p).e ↔ (2 : ℚ) ^ 128 ≤ ibmMagnitude sw p := by
  by_cases h : (extract sw p).fraction = 0
  · rw [front_of_zero .w32 h, ibmMagnitude_of_fraction_eq_zero h]
    norm_num
  · rw [← zpow_ofNat, two_zpow_le_ibmMagnitude_iff .w32 h]
    simp only [rebiasConstant]
    omega

theorem ibmMagnitude_lt_of_front_e {sw : Width} {p : Nat} (h : (extract sw p).fraction ≠ 0) {j : ℤ}
    (he : (front sw .w32 p).e < j + 126) : ibmMagnitude sw p < 2 ^ j := by
  rw [← not_le, two_zpow_le_ibmMagnitude_iff .w32 h]
  simp only [rebiasConstant]
  omega

/-- No 32-bit IBM value lies between the largest finite value and 2^128: N has 24 bits (R61). -/
theorem ibmMagnitude_w32_le {p : Nat} (hm : ibmMagnitude .w32 p < 2 ^ 128) :
    ibmMagnitude .w32 p ≤ (2 - 1 / 2 ^ 23) * 2 ^ 127 := by
  by_cases h : (extract .w32 p).fraction = 0
  · rw [ibmMagnitude_of_fraction_eq_zero h]
    norm_num
  have he : (front .w32 .w32 p).e < 254 := by
    rw [← not_le, overflow_iff_two_pow_128_le]
    exact hm.not_ge
  have hnorm : (front .w32 .w32 p).norm ≤ 2 ^ 24 - 1 := Nat.le_sub_one_of_lt (front_norm_lt .w32 .w32 p)
  calc ibmMagnitude .w32 p
      = (front .w32 .w32 p).norm * 2 ^ ((front .w32 .w32 p).e - (-131) - 256 - 24) := ibmMagnitude_eq_norm .w32 h
    _ ≤ ((2 ^ 24 - 1 : Nat) : ℚ) * 2 ^ (104 : ℤ) := by
        gcongr
        · norm_num
        · omega
    _ = (2 - 1 / 2 ^ 23) * 2 ^ 127 := by norm_num

theorem result32_of_le_two_zpow_neg_150 {sw : Width} {p : Nat} (h : ibmMagnitude sw p ≤ 2 ^ (-150 : ℤ)) :
    result32 sw p = (front sw .w32 p).sgn := by
  rw [result32, (magnitude32_rounds sw p).eq_zero_iff_w32.2 h, Nat.add_zero]

theorem result32_of_le_two_zpow_neg_149 {sw : Width} {p : Nat} (hlo : 2 ^ (-150 : ℤ) < ibmMagnitude sw p)
    (hhi : ibmMagnitude sw p ≤ 2 ^ (-149 : ℤ)) : result32 sw p = (front sw .w32 p).sgn + 1 := by
  rw [result32, (magnitude32_rounds sw p).eq_one_w32 hlo hhi]

/-! ### Fields of the result on the normal and the subnormal path (R60, R63, R65) -/

section Fields
variable {sw : Width} {p : Nat} (h : (extract sw p).fraction ≠ 0)
include h

theorem magnitude32_of_neg (he : (front sw .w32 p).e < 0) :
    magnitude32 sw (front sw .w32 p) = significand32 sw (front sw .w32 p) := by
  rw [magnitude32_of_lt h (by omega), Int.toNat_of_nonpos he.le, Nat.zero_mul, Nat.zero_add]

/-- Without a carry the hidden bit alone reaches the exponent field (R55, R60, R63). -/
theorem result32_fields_of_lt (h0 : 0 ≤ (front sw .w32 p).e) (he : (front sw .w32 p).e < 254)
    (hM : significand32 sw (front sw .w32 p) < 2 ^ 24) :
    (ieeeExponent .w32 (result32 sw p) : Int) = (front sw .w32 p).e + 1 ∧
      ieeeSignificand .w32 (result32 sw p) = significand32 sw (front sw .w32 p) - 2 ^ 23 := by
  have hlo := two_pow_le_significand32 h h0
  rw [ieeeExponent_result32, ieeeSignificand_result32, magnitude32_of_lt h he]
  omega

/-- The carry reaches the exponent field as well and leaves the significand field 0 (R55, R63). -/
theorem result32_fields_of_carry (h0 : 0 ≤ (front sw .w32 p).e) (he : (front sw .w32 p).e < 254)
    (hM : significand32 sw (front sw .w32 p) = 2 ^ 24) :
    (ieeeExponent .w32 (result32 sw p) : Int) = (front sw .w32 p).e + 2 ∧
      ieeeSignificand .w32 (result32 sw p) = 0 := by
  rw [ieeeExponent_result32, ieeeSignificand_result32, magnitude32_of_lt h he]
  omega

/-- The subnormal path: M is the magnitude in units of 2^-149, rounded, and is all of the magnitude bits (R65). -/
theorem result32_of_neg (he : (front sw .w32 p).e < 0) :
    result32 sw p = (front sw .w32 p).sgn + significand32 sw (front sw .w32 p) ∧
      NearestEvenInteger (ibmMagnitude sw p / 2 ^ (-149 : ℤ)) (significand32 sw (front sw .w32 p) : ℤ) ∧
      significand32 sw (front sw .w32 p) ≤ 2 ^ 23 ∧
      ieeeExponent .w32 (result32 sw p) = significand32 sw (front sw .w32 p) / 2 ^ 23 ∧
      ieeeSignificand .w32 (result32 sw p) = significand32 sw (front sw .w32 p) % 2 ^ 23 := by
  have hbits := magnitude32_of_neg h he
  refine ⟨by rw [result32, hbits], ?_, significand32_le_of_neg (front_norm_lt sw .w32 p) he,
    by rw [ieeeExponent_result32, hbits], by rw [ieeeSignificand_result32, hbits]⟩
  have hunits := ibmMagnitude_eq_quotient h
  rw [Int.toNat_of_nonpos he.le, binadeStep_w32_zero] at hunits
  rw [hunits, mul_div_cancel_right₀ _ (by positivity)]
  exact significand32_nearestEven sw _

end Fields

theorem ieeeValue_of_normal {dw : Width} {r : Nat} (h : ieeeClass dw r = .normal) :
    ieeeValue dw r = some ((-1) ^ ieeeSign dw r * ieeeMagnitude dw r) := by
  rw [ieeeValue, h]

/-! ### Completion: the rule's five cases on the port (R59, R62) -/

/-- A 32-bit pattern keeps its value on the port (R34). -/
theorem zext64_eq_ofNat (r : BitVec 32) : zext64 r = BitVec.ofNat 64 r.toNat := by
  have hlt := r.isLt
  apply BitVec.eq_of_toNat_eq
  rw [zext64_toNat, BitVec.toNat_ofNat, Nat.mod_eq_of_lt (by omega)]

theorem exec_ibm32ieee32_eq (s : State) :
    exec .ibm32ieee32 s = .next { s with result := some (BitVec.ofNat 64 (result32 .w32 (s.src.toNat % 2 ^ 32))) } := by
  rw [exec_ibm32ieee32, zext64_eq_ofNat, convIbm32Ieee32_toNat, operand32_toNat]
  rfl

theorem exec_ibm64ieee32_eq (s : State) :
    exec .ibm64ieee32 s = .next { s with result := some (BitVec.ofNat 64 (result32 .w64 s.src.toNat)) } := by
  rw [exec_ibm64ieee32, zext64_eq_ofNat, convIbm64Ieee32_toNat, operand64_eq]
  rfl

/-- The five cases of R59 and R62, for the significand of the normal path and that of the subnormal path. -/
theorem result32_eq_cases (sw : Width) (p : Nat) {mNormal mSubnormal : Nat}
    (hmNormal : 0 ≤ (front sw .w32 p).e → significand32 sw (front sw .w32 p) = mNormal)
    (hmSubnormal : (front sw .w32 p).e < 0 → significand32 sw (front sw .w32 p) = mSubnormal) :
    result32 sw p =
      if (extract sw p).fraction = 0 then (front sw .w32 p).sgn
      else if 0 ≤ (front sw .w32 p).e ∧ (front sw .w32 p).e < 254 then
        (front sw .w32 p).sgn + (front sw .w32 p).e.toNat * 2 ^ 23 + mNormal
      else if 254 ≤ (front sw .w32 p).e then (front sw .w32 p).sgn + 0x7F800000
      else if -32 ≤ (front sw .w32 p).e then (front sw .w32 p).sgn + mSubnormal
      else (front sw .w32 p).sgn := by
  rw [result32]
  split_ifs with hzero hnormal hover hsub
  · rw [magnitude32_of_fraction_eq_zero hzero, Nat.add_zero]
  · rw [magnitude32_of_lt hzero hnormal.2, hmNormal hnormal.1, Nat.add_assoc]
  · rw [magnitude32_of_overflow hzero hover, infinityPattern_w32]
  · rw [magnitude32_of_neg hzero (by omega), hmSubnormal (by omega)]
  · rw [magnitude32_of_neg hzero (by omega), significand32_eq_zero (front_norm_lt sw .w32 p) (by omega), Nat.add_zero]

/-- The count of leading zeros as the rules write it: WF - 1 less the index of the top bit. -/
theorem clz_eq_sub_log2 (w v : Nat) : clz w v = w - 1 - Nat.log2 v := by
  rw [clz]
  omega

/-- N and e of a nonzero fraction, with the shift written with the index of the top bit (R47, R48). -/
theorem front_norm_e_of_log2 {sw : Width} {p : Nat} (h : (extract sw p).fraction ≠ 0) :
    (front sw .w32 p).norm =
        (extract sw p).fraction * 2 ^ (fractionWidth sw - 1 - Nat.log2 (extract sw p).fraction) ∧
      (front sw .w32 p).e = 4 * ((extract sw p).exponent : Int) -
        ((fractionWidth sw - 1 - Nat.log2 (extract sw p).fraction : Nat) : Int) - 131 := by
  rw [front_norm_of_ne_zero .w32 h, front_e_of_ne_zero .w32 h, clz_eq_sub_log2]
  exact ⟨rfl, rfl⟩

/-! ### Value and sign determine the front end (R68 (d), R75 (d)) -/

theorem ibmMagnitude_eq_zero_iff (sw : Width) (p : Nat) : ibmMagnitude sw p = 0 ↔ (extract sw p).fraction = 0 := by
  have hscale : (2 : ℚ) ^ (4 * ((extract sw p).exponent : ℤ) - 256 - fractionWidth sw) ≠ 0 := by positivity
  rw [ibmMagnitude_eq_two_zpow, mul_eq_zero_iff_right hscale, Nat.cast_eq_zero]

theorem ibmMagnitude_eq_of_ibmValue_eq {sw : Width} {p q : Nat} (hsign : (extract sw p).sign = (extract sw q).sign)
    (hvalue : ibmValue sw p = ibmValue sw q) : ibmMagnitude sw p = ibmMagnitude sw q := by
  rw [ibmValue, ibmValue, hsign] at hvalue
  exact mul_left_cancel₀ (pow_ne_zero _ (by norm_num)) hvalue

theorem FrontEnd.eq_of_fields {f g : FrontEnd} (hsgn : f.sgn = g.sgn) (hzero : f.zero = g.zero)
    (hnorm : f.norm = g.norm) (he : f.e = g.e) : f = g := by
  cases f
  cases g
  simp_all

/-- Two patterns of one width with the same sign and magnitude have the same front end: the powers of two below the
magnitude give e, and then N is the magnitude over a power of two. -/
theorem front_congr {sw : Width} (dw : Width) {p q : Nat} (hsign : (extract sw p).sign = (extract sw q).sign)
    (hmag : ibmMagnitude sw p = ibmMagnitude sw q) : front sw dw p = front sw dw q := by
  by_cases hp : (extract sw p).fraction = 0
  · have hq : (extract sw q).fraction = 0 := by
      rwa [← ibmMagnitude_eq_zero_iff, ← hmag, ibmMagnitude_eq_zero_iff]
    rw [front_of_zero dw hp, front_of_zero dw hq, hsign]
  have hq : (extract sw q).fraction ≠ 0 := by
    rwa [Ne, ← ibmMagnitude_eq_zero_iff, ← hmag, ibmMagnitude_eq_zero_iff]
  have he : (front sw dw p).e = (front sw dw q).e := by
    have hreach (j : ℤ) := (two_zpow_le_ibmMagnitude_iff dw hp j).symm.trans
      (hmag ▸ two_zpow_le_ibmMagnitude_iff dw hq j)
    have hpq := (hreach _).1 le_rfl
    have hqp := (hreach _).2 le_rfl
    omega
  have hnorm : (front sw dw p).norm = (front sw dw q).norm := by
    rw [ibmMagnitude_eq_norm dw hp, ibmMagnitude_eq_norm dw hq, he] at hmag
    exact_mod_cast mul_right_cancel₀ (by positivity) hmag
  exact FrontEnd.eq_of_fields (by rw [front_sgn, front_sgn, hsign])
    ((front_zero_eq_false hp dw).trans (front_zero_eq_false hq dw).symm) hnorm he

/-! ### The flipped sign bit (R68 (b), R75 (b)) -/

/-- Flipping the top bit is adding it, since its carry leaves the word. -/
theorem xor_intMin {w : Nat} (x : BitVec w) : x ^^^ BitVec.intMin w = x + BitVec.intMin w := by
  cases w with
  | zero => exact Subsingleton.elim _ _
  | succ w =>
    refine BitVec.eq_of_getLsbD_eq fun i hi => ?_
    have hadd : (x + BitVec.intMin (w + 1)).getLsbD i = (2 ^ w + x.toNat).testBit i := by
      rw [← BitVec.testBit_toNat, BitVec.toNat_add, BitVec.toNat_intMin, Nat.add_mod_mod, Nat.testBit_mod_two_pow,
        decide_eq_true hi, Bool.true_and, Nat.add_comm]
      rfl
    rw [BitVec.getLsbD_xor, BitVec.getLsbD_intMin, hadd]
    rcases (Nat.le_of_lt_succ hi).lt_or_eq with hlt | rfl
    · rw [Nat.testBit_two_pow_add_gt hlt, decide_eq_false (by omega), Bool.xor_false]
      rfl
    · rw [Nat.testBit_two_pow_add_eq, decide_eq_true rfl, Bool.xor_true]
      rfl

/-- The front end of a pattern reads its sign for the placed sign alone. -/
theorem front_of_extract_eq {sw : Width} (dw : Width) {p q s : Nat}
    (h : extract sw q = { extract sw p with sign := s }) :
    front sw dw q = { front sw dw p with sgn := placeSign dw s } := by
  simp only [front, h]
  split_ifs <;> rfl

theorem signMask32_eq : 0x80000000#32 = BitVec.intMin 32 := by decide

theorem signMask64_eq : 0x8000000000000000#64 = BitVec.intMin 64 := by decide

theorem IbmFields.eq_of_fields {f g : IbmFields} (hsign : f.sign = g.sign) (hexponent : f.exponent = g.exponent)
    (hfraction : f.fraction = g.fraction) : f = g := by
  cases f
  cases g
  simp_all

theorem toNat_xor_signMask32 (p : BitVec 32) : (p ^^^ 0x80000000#32).toNat = (p.toNat + 2 ^ 31) % 2 ^ 32 := by
  rw [signMask32_eq, xor_intMin]
  exact BitVec.toNat_add p (BitVec.intMin 32)

theorem toNat_xor_signMask64 (p : BitVec 64) :
    (p ^^^ 0x8000000000000000#64).toNat = (p.toNat + 2 ^ 63) % 2 ^ 64 := by
  rw [signMask64_eq, xor_intMin]
  exact BitVec.toNat_add p (BitVec.intMin 64)

/-- The flipped pattern has the other sign and the same two fields (R42). -/
theorem extract_flip_w32 (p : BitVec 32) :
    extract .w32 (p ^^^ 0x80000000#32).toNat =
      { extract .w32 p.toNat with sign := 1 - (extract .w32 p.toNat).sign } := by
  have hp := p.isLt
  rw [toNat_xor_signMask32]
  apply IbmFields.eq_of_fields <;>
    simp only [extract_sign_w32, extract_exponent_w32, extract_fraction_w32] <;> omega

theorem extract_flip_w64 (p : BitVec 64) :
    extract .w64 (p ^^^ 0x8000000000000000#64).toNat =
      { extract .w64 p.toNat with sign := 1 - (extract .w64 p.toNat).sign } := by
  have hp := p.isLt
  rw [toNat_xor_signMask64]
  apply IbmFields.eq_of_fields <;>
    simp only [extract_sign_w64, extract_exponent_w64, extract_fraction_w64] <;> omega

/-- The placed sign of the flipped bit is the placed sign with the top bit flipped, whatever is added to it. -/
theorem ofNat_placeSign_flip (dw : Width) {b : Nat} (hb : b < 2) (m : Nat) :
    BitVec.ofNat dw.bits (placeSign dw (1 - b) + m) =
      BitVec.ofNat dw.bits (placeSign dw b + m) ^^^ BitVec.intMin dw.bits := by
  have hsign : BitVec.ofNat dw.bits (placeSign dw (1 - b)) =
      BitVec.ofNat dw.bits (placeSign dw b) + BitVec.intMin dw.bits := by
    interval_cases b <;> cases dw <;> rfl
  rw [xor_intMin, BitVec.ofNat_add, BitVec.ofNat_add, hsign, add_right_comm]

theorem ofNat_mod_two_pow (w n : Nat) : BitVec.ofNat w (n % 2 ^ w) = BitVec.ofNat w n := by
  apply BitVec.eq_of_toNat_eq
  simp

/-- Each path to 32 bits adds to the placed sign something that does not depend on it (R55). -/
theorem exists_pathResult32_eq_add (f : FrontEnd) (mNormal mSubnormal : Nat) :
    ∃ m, ∀ t, BitVec.ofNat 32 (pathResult32 { f with sgn := t } mNormal mSubnormal) = BitVec.ofNat 32 (t + m) := by
  simp only [pathResult32]
  cases rangeDispatch .w32 f.zero f.e
  case zero | underflow => exact ⟨0, fun _ => rfl⟩
  case normal =>
    refine ⟨f.e.toNat <<< 23 + mNormal, fun t => ?_⟩
    rw [← Nat.add_assoc]
    exact ofNat_mod_two_pow 32 _
  case overflow => exact ⟨infinityPattern .w32, fun t => ofNat_mod_two_pow 32 _⟩
  case subnormal => exact ⟨mSubnormal, fun t => ofNat_mod_two_pow 32 _⟩

theorem exists_pathResult64_eq_add (f : FrontEnd) (m : Nat) :
    ∃ k, ∀ t, BitVec.ofNat 64 (pathResult64 { f with sgn := t } m) = BitVec.ofNat 64 (t + k) := by
  simp only [pathResult64]
  cases f.zero
  case true => exact ⟨0, fun _ => rfl⟩
  case false =>
    refine ⟨f.e.toNat <<< 52 + m, fun t => ?_⟩
    rw [← Nat.add_assoc]
    exact ofNat_mod_two_pow 64 _

section Flip
variable {f : FrontEnd} {b : Nat} (hb : b < 2)
include hb

theorem pathResult32_flip (hsgn : f.sgn = placeSign .w32 b) (mNormal mSubnormal : Nat) :
    BitVec.ofNat 32 (pathResult32 { f with sgn := placeSign .w32 (1 - b) } mNormal mSubnormal) =
      BitVec.ofNat 32 (pathResult32 f mNormal mSubnormal) ^^^ 0x80000000#32 := by
  obtain ⟨m, hm⟩ := exists_pathResult32_eq_add f mNormal mSubnormal
  have hf : BitVec.ofNat 32 (pathResult32 f mNormal mSubnormal) = BitVec.ofNat 32 (f.sgn + m) := hm f.sgn
  rw [hm, hf, hsgn, signMask32_eq]
  exact ofNat_placeSign_flip .w32 hb m

theorem pathResult64_flip (hsgn : f.sgn = placeSign .w64 b) (m : Nat) :
    BitVec.ofNat 64 (pathResult64 { f with sgn := placeSign .w64 (1 - b) } m) =
      BitVec.ofNat 64 (pathResult64 f m) ^^^ 0x8000000000000000#64 := by
  obtain ⟨k, hk⟩ := exists_pathResult64_eq_add f m
  have hf : BitVec.ofNat 64 (pathResult64 f m) = BitVec.ofNat 64 (f.sgn + k) := hk f.sgn
  rw [hk, hf, hsgn, signMask64_eq]
  exact ofNat_placeSign_flip .w64 hb k

end Flip

/-! ### The obligations -/

/-- Settles O43: the magnitude bits are the rounded pattern, and the sign is placed above them. -/
theorem toIeee32CorrectlyRounded : Obligations.ToIeee32CorrectlyRounded := by
  refine ⟨fun p => ?_, fun p => ?_⟩
  · rw [convIbm32Ieee32_toNat, ieeeMagnitudeBits_result32]
    exact ⟨magnitude32_rounds .w32 _, ieeeSign_result32 .w32 _⟩
  · rw [convIbm64Ieee32_toNat, ieeeMagnitudeBits_result32]
    exact ⟨magnitude32_rounds .w64 _, ieeeSign_result32 .w64 _⟩

/-- Settles O44: correctly rounded results are monotone. -/
theorem toIeee32Monotone : Obligations.ToIeee32Monotone := by
  obtain ⟨h32, h64⟩ := toIeee32CorrectlyRounded
  exact ⟨fun p q => (h32 p).1.mono (h32 q).1, fun p q => (h64 p).1.mono (h64 q).1⟩

/-- Settles O19: the fields of the operand make the front end, and the result is one of the five cases. -/
theorem ibm32Ieee32Completes : Obligations.Ibm32Ieee32Completes := by
  refine ⟨rfl, fun s => ?_, by decide, by decide, by decide⟩
  intro p sgn fraction shift norm e
  have hp : p < 2 ^ 32 := Nat.mod_lt _ (by decide)
  have hfraction : (extract .w32 p).fraction = fraction := extract_fraction_w32 p
  have hsgn : (front .w32 .w32 p).sgn = sgn := by
    rw [front_sgn, placeSign_eq, extract_sign_w32, Nat.mod_eq_of_lt (by omega)]
    rfl
  rw [exec_ibm32ieee32_eq, result32_eq_cases .w32 p significand32_w32_of_normal significand32_w32_of_neg, hfraction,
    hsgn]
  by_cases h : fraction = 0
  · rw [if_pos h, if_pos h]
  · obtain ⟨hnorm, he⟩ := front_norm_e_of_log2 (by rwa [hfraction] : (extract .w32 p).fraction ≠ 0)
    rw [hfraction] at hnorm
    rw [extract_exponent_w32, hfraction] at he
    rw [if_neg h, if_neg h, hnorm, he]
    rfl

/-- Settles O20: the whole port is the operand, and its fields make the front end of the five cases. -/
theorem ibm64Ieee32Completes : Obligations.Ibm64Ieee32Completes := by
  refine ⟨rfl, fun s => ?_, by decide⟩
  intro p sgn fraction shift norm e
  have hp : p < 2 ^ 64 := s.src.isLt
  have hfraction : (extract .w64 p).fraction = fraction := extract_fraction_w64 p
  have hsgn : (front .w64 .w32 p).sgn = sgn := by
    rw [front_sgn, placeSign_eq, extract_sign_w64, Nat.mod_eq_of_lt (by omega)]
    rfl
  rw [exec_ibm64ieee32_eq, result32_eq_cases .w64 p significand32_w64_of_normal significand32_w64_of_neg, hfraction,
    hsgn]
  by_cases h : fraction = 0
  · rw [if_pos h, if_pos h]
  · obtain ⟨hnorm, he⟩ := front_norm_e_of_log2 (by rwa [hfraction] : (extract .w64 p).fraction ≠ 0)
    rw [hfraction] at hnorm
    rw [extract_exponent_w64, hfraction] at he
    rw [if_neg h, if_neg h, hnorm, he]
    rfl

/-- Settles O36: nothing is shifted off N, so the magnitude bits are N in steps of its binade. -/
theorem ibm32Ieee32NormalPathExact : Obligations.Ibm32Ieee32NormalPathExact := by
  intro p f r hz h0 he
  have hr : r = result32 .w32 p.toNat := convIbm32Ieee32_toNat p
  have hfraction : (extract .w32 p.toNat).fraction ≠ 0 := extract_fraction_ne_zero_of_front hz
  have hM : significand32 .w32 f = f.norm := significand32_w32_of_normal h0
  have hlo : 2 ^ 23 ≤ f.norm := (front_norm_bounds .w32 hfraction).1
  have hhi : f.norm < 2 ^ 24 := front_norm_lt .w32 .w32 p.toNat
  have hbits : ieeeMagnitudeBits .w32 r = f.e.toNat * 2 ^ 23 + f.norm := by
    rw [hr, ieeeMagnitudeBits_result32, ← hM]
    exact magnitude32_of_lt hfraction he
  have hfields : (ieeeExponent .w32 r : Int) = f.e + 1 ∧ ieeeSignificand .w32 r = f.norm - 2 ^ 23 := by
    rw [hr, ← hM]
    exact result32_fields_of_lt hfraction h0 he (hM.trans_lt hhi)
  obtain ⟨hexponent, hsignificand⟩ := hfields
  refine ⟨?_, hexponent, by omega, by omega, hlo, hsignificand⟩
  have hclass : ieeeClass .w32 r = .normal := by
    rw [ieeeClass_eq_normal_iff, hbits, infinityPattern_w32]
    simp only [significandWidth]
    omega
  have hvalue : ieeeMagnitude .w32 r = ibmMagnitude .w32 p.toNat := by
    have hshift : excessBits .w32 + (-f.e).toNat = 0 := by
      rw [Int.toNat_of_nonpos (Int.neg_nonpos_of_nonneg h0)]
      rfl
    have hquotient : ibmMagnitude .w32 p.toNat = (f.norm : ℚ) / 2 ^ (excessBits .w32 + (-f.e).toNat)
        * binadeStep .w32 f.e.toNat := ibmMagnitude_eq_quotient hfraction
    have hbinade := ieeeMagnitude_binade (dw := .w32) (E := f.e.toNat) (M := f.norm)
      (hbits ▸ ieeeMagnitudeBits_lt .w32 r) hhi.le (.inr hlo)
    rw [← ieeeMagnitude_magnitudeBits, hbits, hquotient, hshift, pow_zero, div_one]
    exact hbinade
  rw [ieeeValue_of_normal hclass, hvalue, hr, ieeeSign_result32, ibmValue]

/-- Settles O37: from the midpoint on the result is infinity, and between the midpoint and 2^128 there is no 32-bit
IBM magnitude. -/
theorem ibm32Ieee32OverflowsFromTwoPow128 : Obligations.Ibm32Ieee32OverflowsFromTwoPow128 := by
  refine ⟨fun p => ?_, ?_, by decide, ?_, by decide⟩
  · intro f m
    have hgap : m < 2 ^ 128 → m ≤ (2 - 1 / 2 ^ 23) * 2 ^ 127 := ibmMagnitude_w32_le
    refine ⟨?_, overflow_iff_two_pow_128_le .w32 _, hgap⟩
    rw [convIbm32Ieee32_toNat, result32, Nat.add_left_cancel_iff, (magnitude32_rounds .w32 _).eq_infinity_iff_w32]
    refine ⟨fun hmid => ?_, fun hover => le_trans (by norm_num) hover⟩
    by_contra! hlt
    have hle := hmid.trans (hgap hlt)
    norm_num at hle
  all_goals norm_num [ibmMagnitude, fractionWidth, Width.bits]

/-- Settles O38: a carry is exactly M = 2^24. -/
theorem ibm64Ieee32NormalPathCarry : Obligations.Ibm64Ieee32NormalPathCarry := by
  refine ⟨fun p => ?_, by decide, by decide⟩
  intro f m r hz h0 he
  have hr : r = result32 .w64 p.toNat := convIbm64Ieee32_toNat p
  have hfraction : (extract .w64 p.toNat).fraction ≠ 0 := extract_fraction_ne_zero_of_front hz
  have hnorm : f.norm < 2 ^ 56 := front_norm_lt .w64 .w32 p.toNat
  have hM : significand32 .w64 f = m := significand32_w64_of_normal h0
  refine ⟨rneShr_nearestEven f.norm (by decide), ?_, ?_, rneShr_eq_two_pow_iff (j := 24) (by decide) hnorm,
    fun hcarry => ?_, fun hlt => ?_⟩
  · rw [← hM]
    exact two_pow_le_significand32 hfraction h0
  · rw [← hM]
    exact significand32_le hnorm
  · rw [hr]
    exact result32_fields_of_carry hfraction h0 he (hM.trans hcarry)
  · rw [hr, ← hM]
    exact result32_fields_of_lt hfraction h0 he (hM.trans_lt hlt)

/-- Settles O39, from the thresholds of rounding; below 2^128 only e = 253 with a carry makes the infinity pattern. -/
theorem ibm64Ieee32OverflowsFromMidpoint : Obligations.Ibm64Ieee32OverflowsFromMidpoint := by
  refine ⟨fun p => ?_, by decide, by decide, by decide⟩
  intro f m r
  have hr : r = f.sgn + magnitude32 .w64 f := convIbm64Ieee32_toNat p
  have hrounds : RoundsToNearestEven .w32 m (magnitude32 .w64 f) := magnitude32_rounds .w64 p.toNat
  have hover : 254 ≤ f.e ↔ (2 : ℚ) ^ 128 ≤ m := overflow_iff_two_pow_128_le .w64 p.toNat
  refine ⟨?_, hover, fun hmid hlt => ?_, fun hlo hhi => ?_⟩
  · rw [hr, Nat.add_left_cancel_iff, hrounds.eq_infinity_iff_w32]
  · have hfraction : (extract .w64 p.toNat).fraction ≠ 0 := by
      intro h
      rw [show m = 0 from ibmMagnitude_of_fraction_eq_zero h] at hmid
      norm_num at hmid
    have he : f.e < 254 := by rw [← not_le, hover]; exact hlt.not_ge
    have hinf := hrounds.eq_infinity_iff_w32.2 hmid
    have hM : significand32 .w64 f ≤ 2 ^ 24 := significand32_le (front_norm_lt .w64 .w32 p.toNat)
    have hbits : magnitude32 .w64 f = f.e.toNat * 2 ^ 23 + significand32 .w64 f := magnitude32_of_lt hfraction he
    rw [← significand32_w64_of_normal (by omega)]
    omega
  · rw [hr, hrounds.eq_largest_finite_w32 hlo.le hhi]

/-- Settles O40: both operations take the subnormal path, each with its own shift. -/
theorem subnormalPathRoundsToNearestEven : Obligations.SubnormalPathRoundsToNearestEven := by
  refine ⟨fun p => ?_, fun p => ?_, by decide, by decide, by decide, by decide⟩
  · intro f m r hz _ he
    have hr : r = result32 .w32 p.toNat := convIbm32Ieee32_toNat p
    have hfraction : (extract .w32 p.toNat).fraction ≠ 0 := extract_fraction_ne_zero_of_front hz
    have hM : significand32 .w32 f = m := significand32_w32_of_neg he
    obtain ⟨hsum, hnear, hle, hexponent, hsignificand⟩ := result32_of_neg hfraction he
    rw [hr, ← hM]
    exact ⟨hsum, hnear, hle, hexponent, hsignificand, fun hlow =>
      ⟨ibmMagnitude_lt_of_front_e hfraction (Int.lt_add_one_of_le hlow),
        significand32_eq_zero (front_norm_lt .w32 .w32 p.toNat) hlow⟩⟩
  · intro f m r hz _ he
    have hr : r = result32 .w64 p.toNat := convIbm64Ieee32_toNat p
    have hfraction : (extract .w64 p.toNat).fraction ≠ 0 := extract_fraction_ne_zero_of_front hz
    have hM : significand32 .w64 f = m := significand32_w64_of_neg he
    rw [hr, ← hM]
    exact result32_of_neg hfraction he

/-- Settles O41: at e = -1 a 64-bit N rounds by 33 bits and may carry, while a 32-bit N has been shifted left by 2
modulo 4 and loses only a zero bit. -/
theorem subnormalCarryIntoNormalRange : Obligations.SubnormalCarryIntoNormalRange := by
  refine ⟨fun p => ?_, fun p => ?_, by decide, by decide, by decide⟩
  · intro f hz he hcarry
    have hfraction : (extract .w64 p.toNat).fraction ≠ 0 := extract_fraction_ne_zero_of_front hz
    have hM : significand32 .w64 f = rneShr f.norm 33 := by
      rw [significand32_w64_of_neg (by omega), he]
      rfl
    have hround : rneShr f.norm 33 = 0x00800000 :=
      (rneShr_eq_two_pow_iff (j := 23) (by decide) (front_norm_lt .w64 .w32 p.toNat)).2 hcarry
    have hsum : result32 .w64 p.toNat = f.sgn + significand32 .w64 f :=
      (result32_of_neg hfraction (show f.e < 0 by omega)).1
    refine ⟨hround, ?_⟩
    rw [convIbm64Ieee32_toNat, hsum, hM, hround]
  · intro f hz he
    have hfraction : (extract .w32 p.toNat).fraction ≠ 0 := extract_fraction_ne_zero_of_front hz
    have hclz : clz 24 (extract .w32 p.toNat).fraction % 4 = 2 := by
      have hsum : f.e = 4 * ((extract .w32 p.toNat).exponent : Int) -
          (clz 24 (extract .w32 p.toNat).fraction : Int) + (-131) := front_e_of_ne_zero .w32 hfraction
      omega
    have heven : f.norm % 2 = 0 := by
      have hnorm : f.norm = (extract .w32 p.toNat).fraction * 2 ^ clz 24 (extract .w32 p.toNat).fraction :=
        front_norm_of_ne_zero .w32 hfraction
      rw [hnorm]
      exact Nat.mod_eq_zero_of_dvd ((dvd_pow_self 2 (by omega)).mul_left _)
    have hlt : f.norm < 2 ^ 24 := front_norm_lt .w32 .w32 p.toNat
    have hM : significand32 .w32 f = f.norm / 2 := by
      rw [significand32_w32_of_neg (by omega), he, ← rneShr_one_of_even heven]
      rfl
    have hbits : magnitude32 .w32 f = f.norm / 2 :=
      (magnitude32_of_neg hfraction (show f.e < 0 by omega)).trans hM
    refine ⟨hclz, heven, ?_⟩
    rw [convIbm32Ieee32_toNat, ieeeExponent_result32]
    exact Nat.div_eq_of_lt (hbits.trans_lt (by omega))

/-- Settles O42: below e = -32 the magnitude is below 2^-158, and the rest is the lowest threshold of rounding. -/
theorem underflowToSignedZero : Obligations.UnderflowToSignedZero := by
  have hunder {sw : Width} {p : Nat} (hz : (front sw .w32 p).zero = false) (he : (front sw .w32 p).e < -32) :
      result32 sw p = (front sw .w32 p).sgn ∧ ibmMagnitude sw p < 2 ^ (-158 : ℤ) := by
    have hlt : ibmMagnitude sw p < 2 ^ (-158 : ℤ) :=
      ibmMagnitude_lt_of_front_e (extract_fraction_ne_zero_of_front hz) he
    exact ⟨result32_of_le_two_zpow_neg_150 (hlt.le.trans (by norm_num)), hlt⟩
  refine ⟨fun p => ?_, fun p => ?_, by decide, by decide, by decide⟩
  · rw [convIbm32Ieee32_toNat]
    exact ⟨hunder, result32_of_le_two_zpow_neg_150, result32_of_le_two_zpow_neg_149⟩
  · rw [convIbm64Ieee32_toNat]
    exact ⟨hunder, result32_of_le_two_zpow_neg_150, result32_of_le_two_zpow_neg_149⟩

/-- Settles O51: the flipped pattern has the same front end but for the placed sign, to which every path adds the same
magnitude bits. -/
theorem signBitFlipsAlone : Obligations.SignBitFlipsAlone := by
  refine ⟨fun p => ⟨?_, ?_⟩, fun p => ⟨?_, ?_⟩⟩
  · rw [convIbm32Ieee32_eq, convIbm32Ieee32_eq, front_of_extract_eq .w32 (extract_flip_w32 p)]
    exact pathResult32_flip (extract_sign_lt ..) (front_sgn ..) _ _
  · rw [convIbm32Ieee64_eq, convIbm32Ieee64_eq, front_of_extract_eq .w64 (extract_flip_w32 p)]
    exact pathResult64_flip (extract_sign_lt ..) (front_sgn ..) _
  · rw [convIbm64Ieee32_eq, convIbm64Ieee32_eq, front_of_extract_eq .w32 (extract_flip_w64 p)]
    exact pathResult32_flip (extract_sign_lt ..) (front_sgn ..) _ _
  · rw [convIbm64Ieee64_eq, convIbm64Ieee64_eq, front_of_extract_eq .w64 (extract_flip_w64 p)]
    exact pathResult64_flip (extract_sign_lt ..) (front_sgn ..) _

/-- Settles O52: each conversion reads its pattern through the front end alone. -/
theorem resultDependsOnValueAndSign : Obligations.ResultDependsOnValueAndSign := by
  refine ⟨fun p q hsign hvalue => ?_, fun p q hsign hvalue => ?_⟩
  · have hmag := ibmMagnitude_eq_of_ibmValue_eq hsign hvalue
    have h32 := front_congr .w32 hsign hmag
    have h64 := front_congr .w64 hsign hmag
    exact ⟨by rw [convIbm32Ieee32_eq, convIbm32Ieee32_eq, h32], by rw [convIbm32Ieee64_eq, convIbm32Ieee64_eq, h64]⟩
  · have hmag := ibmMagnitude_eq_of_ibmValue_eq hsign hvalue
    have h32 := front_congr .w32 hsign hmag
    have h64 := front_congr .w64 hsign hmag
    exact ⟨by rw [convIbm64Ieee32_eq, convIbm64Ieee32_eq, h32], by rw [convIbm64Ieee64_eq, convIbm64Ieee64_eq, h64]⟩

end Sys2Proof.Machine

/-! ## Conversions to IEEE 64-bit (spec/42_to_ieee64.md)

Both conversions as one sum over one front end: the placed sign, and the magnitude bits made of e and of the significand
M. M is N with its top bit moved to the hidden bit, which is exact for a 32-bit source and rounded for a 64-bit one, and
the magnitude bits are the rounded pattern of the magnitude. -/

namespace Sys2Proof.Machine

/-! ### The significand M of both operations (R69, R72) -/

/-- M: N shifted left by 29, or rounded by a shift of 3. -/
def significand64 (sw : Width) (n : Nat) : Nat :=
  match sw with
  | .w32 => n <<< 29
  | .w64 => rneShr n 3

theorem significand64_w32 (n : Nat) : significand64 .w32 n = n * 2 ^ 29 := Nat.shiftLeft_eq _ _

theorem significand64_w64 (n : Nat) : significand64 .w64 n = rneShr n 3 := rfl

/-- What M stands for: N with its top bit at the place 52 of the hidden bit, before any rounding (R49). -/
def scaledNorm64 (sw : Width) (n : Nat) : ℚ := n * 2 ^ (53 - (fractionWidth sw : ℤ))

/-- A 32-bit source loses nothing (R70). -/
theorem scaledNorm64_w32 (n : Nat) : scaledNorm64 .w32 n = significand64 .w32 n := by
  have hshift : 53 - (fractionWidth .w32 : ℤ) = (29 : Nat) := rfl
  rw [scaledNorm64, hshift, zpow_natCast, significand64_w32, Nat.cast_mul, Nat.cast_pow, Nat.cast_two]

theorem scaledNorm64_w64 (n : Nat) : scaledNorm64 .w64 n = n / 2 ^ 3 := by
  have hshift : 53 - (fractionWidth .w64 : ℤ) = -(3 : Nat) := rfl
  rw [scaledNorm64, hshift, zpow_neg, zpow_natCast, div_eq_mul_inv]

/-- M is the nearest integer to what it stands for, ties to even (R70, R73). -/
theorem significand64_nearestEven (sw : Width) (n : Nat) :
    NearestEvenInteger (scaledNorm64 sw n) (significand64 sw n : ℤ) := by
  cases sw
  case w32 =>
    rw [scaledNorm64_w32]
    exact nearestEvenInteger_natCast _
  case w64 =>
    rw [scaledNorm64_w64]
    exact rneShr_nearestEven n (by decide)

/-! ### A conversion to 64 bits as one sum: the placed sign and the magnitude bits (R55, R69, R72) -/

/-- The result without its sign. -/
def magnitude64 (sw : Width) (f : FrontEnd) : Nat :=
  if f.zero then 0 else f.e.toNat * 2 ^ 52 + significand64 sw f.norm

/-- The result of a conversion to 64 bits: the placed sign and the magnitude bits. -/
def result64 (sw : Width) (p : Nat) : Nat := (front sw .w64 p).sgn + magnitude64 sw (front sw .w64 p)

theorem magnitude64_of_fraction_eq_zero {sw : Width} {p : Nat} (h : (extract sw p).fraction = 0) :
    magnitude64 sw (front sw .w64 p) = 0 := by
  rw [magnitude64, if_pos ((front_zero_iff sw .w64 p).2 h)]

section Nonzero
variable {sw : Width} {p : Nat} (h : (extract sw p).fraction ≠ 0)
include h

theorem magnitude64_of_fraction_ne_zero :
    magnitude64 sw (front sw .w64 p) =
      (front sw .w64 p).e.toNat * 2 ^ 52 + significand64 sw (front sw .w64 p).norm := by
  rw [magnitude64, front_zero_eq_false h, if_neg Bool.false_ne_true]

/-- M has its top bit at the hidden bit, or is the carry above it (R70, R73). -/
theorem significand64_bounds :
    2 ^ 52 ≤ significand64 sw (front sw .w64 p).norm ∧ significand64 sw (front sw .w64 p).norm ≤ 2 ^ 53 := by
  obtain ⟨hlo, hhi⟩ := front_norm_bounds .w64 h
  cases sw
  case w32 =>
    simp only [fractionWidth, Width.bits] at hlo hhi
    rw [significand64_w32]
    omega
  case w64 => exact ⟨two_pow_le_rneShr hlo, rneShr_le_two_pow hhi le_rfl⟩

theorem scaledNorm64_bounds :
    2 ^ 52 ≤ scaledNorm64 sw (front sw .w64 p).norm ∧ scaledNorm64 sw (front sw .w64 p).norm ≤ 2 ^ 53 := by
  cases sw
  case w32 =>
    rw [scaledNorm64_w32]
    exact_mod_cast significand64_bounds h
  case w64 =>
    obtain ⟨hlo, hhi⟩ := front_norm_bounds .w64 h
    rw [scaledNorm64_w64, le_div_iff₀ (by positivity), div_le_iff₀ (by positivity), ← pow_add, ← pow_add]
    exact_mod_cast And.intro hlo hhi.le

/-- No e of either source makes the exponent field zero or all ones (R50, R71, R74). -/
theorem front_e_w64_bounds : 710 ≤ (front sw .w64 p).e ∧ (front sw .w64 p).e ≤ 1273 := by
  have hbounds := front_e_bounds .w64 h
  cases sw <;> simp only [rebiasConstant, fractionWidth, Width.bits] at hbounds <;> omega

/-- The magnitude bits are those of a normal number (R71, R74). -/
theorem magnitude64_bounds :
    2 ^ 52 ≤ magnitude64 sw (front sw .w64 p) ∧ magnitude64 sw (front sw .w64 p) < infinityPattern .w64 := by
  have he := front_e_w64_bounds h
  have hM := significand64_bounds h
  rw [magnitude64_of_fraction_ne_zero h, infinityPattern_w64]
  omega

/-- In units of the binade the magnitude is what M stands for (R49). -/
theorem ibmMagnitude_eq_scaledNorm64 :
    ibmMagnitude sw p = scaledNorm64 sw (front sw .w64 p).norm * binadeStep .w64 (front sw .w64 p).e.toNat := by
  obtain ⟨he, -⟩ := front_e_w64_bounds h
  rw [ibmMagnitude_eq_norm .w64 h, scaledNorm64, binadeStep, mul_assoc, ← zpow_add₀ two_ne_zero]
  congr 2
  simp only [rebiasConstant, ieeeBias, significandWidth]
  omega

end Nonzero

section Result
variable (sw : Width) (p : Nat)

theorem magnitude64_front_lt : magnitude64 sw (front sw .w64 p) < infinityPattern .w64 := by
  by_cases h : (extract sw p).fraction = 0
  · rw [magnitude64_of_fraction_eq_zero h, infinityPattern_w64]
    decide
  · exact (magnitude64_bounds h).2

theorem magnitude64_front_lt_signBit : magnitude64 sw (front sw .w64 p) < 2 ^ 63 :=
  (magnitude64_front_lt sw p).trans (infinityPattern_lt .w64)

theorem result64_lt : result64 sw p < 2 ^ 64 := by
  rw [result64, front_sgn]
  exact placeSign_add_lt (Nat.le_of_lt_succ (extract_sign_lt sw p)) (magnitude64_front_lt_signBit sw p)

theorem ieeeMagnitudeBits_result64 :
    ieeeMagnitudeBits .w64 (result64 sw p) = magnitude64 sw (front sw .w64 p) := by
  rw [result64, front_sgn]
  exact ieeeMagnitudeBits_of_lt _ (magnitude64_front_lt_signBit sw p)

theorem ieeeSign_result64 : ieeeSign .w64 (result64 sw p) = (extract sw p).sign := by
  rw [result64, front_sgn]
  exact ieeeSign_placeSign_add (Nat.le_of_lt_succ (extract_sign_lt sw p)) (magnitude64_front_lt_signBit sw p)

/-- Both paths give the placed sign plus the magnitude bits, with no bit lost (R55, R56). -/
theorem pathResult64_eq_result64 :
    pathResult64 (front sw .w64 p) (significand64 sw (front sw .w64 p).norm) = result64 sw p := by
  have hlt := magnitude64_front_lt_signBit sw p
  rw [pathResult64, result64]
  by_cases h : (extract sw p).fraction = 0
  · rw [if_pos ((front_zero_iff sw .w64 p).2 h), magnitude64_of_fraction_eq_zero h, Nat.add_zero]
  · rw [magnitude64_of_fraction_ne_zero h] at hlt ⊢
    rw [front_zero_eq_false h, if_neg Bool.false_ne_true, front_sgn]
    exact assembleNormal_eq (Nat.le_of_lt_succ (extract_sign_lt sw p)) hlt

end Result

theorem convIbm32Ieee64_eq_result64 (p : BitVec 32) : convIbm32Ieee64 p = BitVec.ofNat 64 (result64 .w32 p.toNat) := by
  rw [convIbm32Ieee64_eq, ← pathResult64_eq_result64]
  rfl

theorem convIbm64Ieee64_eq_result64 (p : BitVec 64) : convIbm64Ieee64 p = BitVec.ofNat 64 (result64 .w64 p.toNat) := by
  rw [convIbm64Ieee64_eq, ← pathResult64_eq_result64]
  rfl

theorem convIbm32Ieee64_toNat (p : BitVec 32) : (convIbm32Ieee64 p).toNat = result64 .w32 p.toNat := by
  rw [convIbm32Ieee64_eq_result64, BitVec.toNat_ofNat, Nat.mod_eq_of_lt (result64_lt .w32 _)]

theorem convIbm64Ieee64_toNat (p : BitVec 64) : (convIbm64Ieee64 p).toNat = result64 .w64 p.toNat := by
  rw [convIbm64Ieee64_eq_result64, BitVec.toNat_ofNat, Nat.mod_eq_of_lt (result64_lt .w64 _)]

/-! ### Correct rounding (R75 (a)) -/

/-- The magnitude bits are the correctly rounded pattern of the magnitude. -/
theorem magnitude64_rounds (sw : Width) (p : Nat) :
    RoundsToNearestEven .w64 (ibmMagnitude sw p) (magnitude64 sw (front sw .w64 p)) := by
  by_cases h : (extract sw p).fraction = 0
  · rw [ibmMagnitude_of_fraction_eq_zero h, magnitude64_of_fraction_eq_zero h]
    simpa using roundsToNearestEven_ieeeMagnitude (dw := .w64) (Nat.zero_le _)
  have hbits := magnitude64_of_fraction_ne_zero h
  obtain ⟨hMlo, hMhi⟩ := significand64_bounds h
  obtain ⟨hylo, hyhi⟩ := scaledNorm64_bounds h
  rw [ibmMagnitude_eq_scaledNorm64 h, hbits]
  exact roundsToNearestEven_binade (hbits ▸ (magnitude64_front_lt sw p).le) hMhi hyhi (.inr ⟨hMlo, hylo⟩)
    (significand64_nearestEven sw _)

/-! ### Kind, fields and size of the result (R70, R71, R73, R74) -/

section Fields
variable {sw : Width} {p : Nat} (h : (extract sw p).fraction ≠ 0)
include h

theorem ieeeClass_result64_normal : ieeeClass .w64 (result64 sw p) = .normal := by
  rw [ieeeClass_eq_normal_iff, ieeeMagnitudeBits_result64]
  exact magnitude64_bounds h

/-- Without a carry the hidden bit alone reaches the exponent field (R55, R70, R73). -/
theorem result64_fields_of_lt (hM : significand64 sw (front sw .w64 p).norm < 2 ^ 53) :
    (ieeeExponent .w64 (result64 sw p) : Int) = (front sw .w64 p).e + 1 ∧
      ieeeSignificand .w64 (result64 sw p) = significand64 sw (front sw .w64 p).norm - 2 ^ 52 := by
  have he := front_e_w64_bounds h
  have hlo := (significand64_bounds h).1
  rw [ieeeExponent_eq_div, ieeeSignificand_eq_mod, ieeeMagnitudeBits_result64, magnitude64_of_fraction_ne_zero h]
  simp only [significandWidth]
  omega

/-- The carry reaches the exponent field as well and leaves the significand field 0 (R55, R73). -/
theorem result64_fields_of_carry (hM : significand64 sw (front sw .w64 p).norm = 2 ^ 53) :
    (ieeeExponent .w64 (result64 sw p) : Int) = (front sw .w64 p).e + 2 ∧
      ieeeSignificand .w64 (result64 sw p) = 0 := by
  have he := front_e_w64_bounds h
  rw [ieeeExponent_eq_div, ieeeSignificand_eq_mod, ieeeMagnitudeBits_result64, magnitude64_of_fraction_ne_zero h]
  simp only [significandWidth]
  omega

/-- The power of two that the magnitude reaches is e - 1022, so bounds on e are bounds on the magnitude (R49, R50). -/
theorem ibmMagnitude_bounds_of_front_e {lo : ℤ} {hi : Nat} (hlo : lo + 1022 ≤ (front sw .w64 p).e)
    (hhi : (front sw .w64 p).e < hi + 1022) : 2 ^ lo ≤ ibmMagnitude sw p ∧ ibmMagnitude sw p < 2 ^ hi := by
  rw [← not_le, ← zpow_natCast, two_zpow_le_ibmMagnitude_iff .w64 h, two_zpow_le_ibmMagnitude_iff .w64 h]
  simp only [rebiasConstant]
  omega

end Fields

/-- M of a 32-bit source has no carry (R70). -/
theorem significand64_w32_lt (p : Nat) : significand64 .w32 (front .w32 .w64 p).norm < 2 ^ 53 := by
  have hnorm : (front .w32 .w64 p).norm < 2 ^ 24 := front_norm_lt .w32 .w64 p
  rw [significand64_w32]
  omega

/-! ### The exact value (R70) -/

theorem ieeeValue_of_zero {dw : Width} {r : Nat} (h : ieeeClass dw r = .zero) :
    ieeeValue dw r = some ((-1) ^ ieeeSign dw r * ieeeMagnitude dw r) := by
  rw [ieeeValue, h]

theorem ieeeValue_result64 (sw : Width) (p : Nat) :
    ieeeValue .w64 (result64 sw p) = some ((-1) ^ (extract sw p).sign * ieeeMagnitude .w64 (result64 sw p)) := by
  rw [← ieeeSign_result64]
  by_cases h : (extract sw p).fraction = 0
  · refine ieeeValue_of_zero ?_
    rw [ieeeClass_eq_zero_iff, ieeeMagnitudeBits_result64, magnitude64_of_fraction_eq_zero h]
  · exact ieeeValue_of_normal (ieeeClass_result64_normal h)

/-- The magnitude of the result is M in steps of its binade, and M is what it stands for. -/
theorem ieeeMagnitude_result64_w32 (p : Nat) : ieeeMagnitude .w64 (result64 .w32 p) = ibmMagnitude .w32 p := by
  have hlt := magnitude64_front_lt_signBit .w32 p
  rw [← ieeeMagnitude_magnitudeBits, ieeeMagnitudeBits_result64]
  by_cases h : (extract .w32 p).fraction = 0
  · rw [magnitude64_of_fraction_eq_zero h, ibmMagnitude_of_fraction_eq_zero h, ieeeMagnitude_zero]
  · rw [magnitude64_of_fraction_ne_zero h] at hlt ⊢
    obtain ⟨hlo, hhi⟩ := significand64_bounds h
    rw [ibmMagnitude_eq_scaledNorm64 h, scaledNorm64_w32]
    exact ieeeMagnitude_binade hlt hhi (.inr hlo)

/-- Below the sign, the exponent term and N shifted by 29 there are 29 zero bits. -/
theorem result64_w32_mod (p : Nat) : result64 .w32 p % 2 ^ 29 = 0 := by
  rw [result64, front_sgn, placeSign_eq, magnitude64, significand64_w32]
  simp only [Width.bits]
  split_ifs <;> omega

/-! ### Completion: the two cases on the port (R69, R72) -/

theorem exec_ibm32ieee64_eq (s : State) :
    exec .ibm32ieee64 s = .next { s with result := some (BitVec.ofNat 64 (result64 .w32 (s.src.toNat % 2 ^ 32))) } := by
  rw [exec_ibm32ieee64, convIbm32Ieee64_eq_result64, operand32_toNat]
  rfl

theorem exec_ibm64ieee64_eq (s : State) :
    exec .ibm64ieee64 s = .next { s with result := some (BitVec.ofNat 64 (result64 .w64 s.src.toNat)) } := by
  rw [exec_ibm64ieee64, convIbm64Ieee64_eq_result64, operand64_eq]
  rfl

/-- The two cases of R69 and R72, with the shift written with the index of the top bit (R47). -/
theorem result64_eq_cases (sw : Width) (p : Nat) {shift : Nat}
    (hshift : fractionWidth sw - 1 - Nat.log2 (extract sw p).fraction = shift) :
    result64 sw p =
      if (extract sw p).fraction = 0 then (extract sw p).sign * 2 ^ 63
      else (extract sw p).sign * 2 ^ 63
        + (4 * ((extract sw p).exponent : Int) - (shift : Int) + 765).toNat * 2 ^ 52
        + significand64 sw ((extract sw p).fraction * 2 ^ shift) := by
  have hsgn : (front sw .w64 p).sgn = (extract sw p).sign * 2 ^ 63 := by
    rw [front_sgn, placeSign_eq]
    rfl
  rw [← clz_eq_sub_log2] at hshift
  rw [result64, hsgn]
  split_ifs with h
  · rw [magnitude64_of_fraction_eq_zero h, Nat.add_zero]
  · rw [magnitude64_of_fraction_ne_zero h, front_norm_of_ne_zero .w64 h, front_e_of_ne_zero .w64 h, hshift,
      Nat.add_assoc]
    rfl

/-! ### The obligations -/

/-- Settles O49: the magnitude bits are the rounded pattern, and the sign is placed above them. -/
theorem toIeee64CorrectlyRounded : Obligations.ToIeee64CorrectlyRounded := by
  refine ⟨fun p => ?_, fun p => ?_⟩
  · rw [convIbm32Ieee64_toNat, ieeeMagnitudeBits_result64]
    exact ⟨magnitude64_rounds .w32 _, ieeeSign_result64 .w32 _⟩
  · rw [convIbm64Ieee64_toNat, ieeeMagnitudeBits_result64]
    exact ⟨magnitude64_rounds .w64 _, ieeeSign_result64 .w64 _⟩

/-- Settles O50: correctly rounded results are monotone. -/
theorem toIeee64Monotone : Obligations.ToIeee64Monotone := by
  obtain ⟨h32, h64⟩ := toIeee64CorrectlyRounded
  exact ⟨fun p q => (h32 p).1.mono (h32 q).1, fun p q => (h64 p).1.mono (h64 q).1⟩

/-- Settles O21: the fields of the low half of the port make the front end, and M is N shifted left by 29. -/
theorem ibm32Ieee64Completes : Obligations.Ibm32Ieee64Completes := by
  refine ⟨rfl, fun s => ?_, by decide, by decide, by decide⟩
  intro p sgn fraction shift norm e
  have hp : p < 2 ^ 32 := Nat.mod_lt _ (by decide)
  have hsign : p / 2 ^ 31 % 2 = p / 2 ^ 31 := Nat.mod_eq_of_lt (by omega)
  have hshift : fractionWidth .w32 - 1 - Nat.log2 (extract .w32 p).fraction = shift := by
    rw [extract_fraction_w32]
    rfl
  rw [exec_ibm32ieee64_eq, result64_eq_cases .w32 p hshift, extract_fraction_w32, extract_exponent_w32,
    extract_sign_w32, hsign, significand64_w32]

/-- Settles O22: the fields of the whole port make the front end, and M is N rounded by a shift of 3. -/
theorem ibm64Ieee64Completes : Obligations.Ibm64Ieee64Completes := by
  refine ⟨rfl, fun s => ?_, by decide, by decide⟩
  intro p sgn fraction shift norm e
  have hp : p < 2 ^ 64 := s.src.isLt
  have hsign : p / 2 ^ 63 % 2 = p / 2 ^ 63 := Nat.mod_eq_of_lt (by omega)
  have hshift : fractionWidth .w64 - 1 - Nat.log2 (extract .w64 p).fraction = shift := by
    rw [extract_fraction_w64]
    rfl
  rw [exec_ibm64ieee64_eq, result64_eq_cases .w64 p hshift, extract_fraction_w64, extract_exponent_w64,
    extract_sign_w64, hsign, significand64_w64]

/-- Settles O45: N is only shifted left, so the result has the magnitude and the sign of the input; a 24-bit N has no
carry. -/
theorem ibm32Ieee64WideningExact : Obligations.Ibm32Ieee64WideningExact := by
  intro p f r
  have hr : r = result64 .w32 p.toNat := convIbm32Ieee64_toNat p
  refine ⟨?_, hr ▸ result64_w32_mod _, fun hz => ?_⟩
  · rw [hr, ieeeValue_result64, ieeeMagnitude_result64_w32, ibmValue]
  · have hfraction : (extract .w32 p.toNat).fraction ≠ 0 := extract_fraction_ne_zero_of_front hz
    have hM : significand64 .w32 f.norm = f.norm * 2 ^ 29 := significand64_w32 f.norm
    obtain ⟨hMlo, -⟩ := significand64_bounds hfraction
    obtain ⟨hexponent, hsignificand⟩ : (ieeeExponent .w64 r : Int) = f.e + 1 ∧
        ieeeSignificand .w64 r = significand64 .w32 f.norm - 2 ^ 52 := by
      rw [hr]
      exact result64_fields_of_lt hfraction (significand64_w32_lt p.toNat)
    obtain ⟨helo, hehi⟩ : 742 ≤ f.e ∧ f.e ≤ 1273 := front_e_bounds .w64 hfraction
    rw [← hM]
    exact ⟨hexponent, by omega, by omega, hMlo, hsignificand⟩

/-- Settles O46, from the range of e for a 24-bit fraction and the exponent field of O45. -/
theorem ibm32Ieee64AlwaysNormal : Obligations.Ibm32Ieee64AlwaysNormal := by
  intro p f r hz
  have hr : r = result64 .w32 p.toNat := convIbm32Ieee64_toNat p
  have hfraction : (extract .w32 p.toNat).fraction ≠ 0 := extract_fraction_ne_zero_of_front hz
  obtain ⟨helo, hehi⟩ : 742 ≤ f.e ∧ f.e ≤ 1273 := front_e_bounds .w64 hfraction
  obtain ⟨-, -, hfields⟩ := ibm32Ieee64WideningExact p
  obtain ⟨-, hfieldlo, hfieldhi, -⟩ := hfields hz
  refine ⟨helo, hehi, hfieldlo, hfieldhi, ?_,
    ibmMagnitude_bounds_of_front_e hfraction helo (Int.lt_add_one_of_le hehi)⟩
  rw [hr]
  exact ieeeClass_result64_normal hfraction

/-- Settles O47: a carry is exactly M = 2^53. -/
theorem ibm64Ieee64RoundingCarry : Obligations.Ibm64Ieee64RoundingCarry := by
  refine ⟨fun p => ?_, by decide, by decide, by decide, by decide⟩
  intro f m r hz
  have hr : r = result64 .w64 p.toNat := convIbm64Ieee64_toNat p
  have hfraction : (extract .w64 p.toNat).fraction ≠ 0 := extract_fraction_ne_zero_of_front hz
  have hnorm : f.norm < 2 ^ 56 := front_norm_lt .w64 .w64 p.toNat
  have hnearest : NearestEvenInteger ((f.norm : ℚ) / 8) (m : ℤ) := by
    have hpow : (8 : ℚ) = 2 ^ 3 := by norm_num
    rw [hpow]
    exact rneShr_nearestEven f.norm (by decide)
  obtain ⟨hMlo, hMhi⟩ := significand64_bounds hfraction
  rw [hr]
  exact ⟨hnearest, hMlo, hMhi, rneShr_eq_two_pow_iff (j := 53) (by decide) hnorm,
    result64_fields_of_carry hfraction, result64_fields_of_lt hfraction⟩

/-- Settles O48, from the range of e for a 56-bit fraction and the two exponent fields of O47. -/
theorem ibm64Ieee64AlwaysNormal : Obligations.Ibm64Ieee64AlwaysNormal := by
  intro p f r hz
  have hr : r = result64 .w64 p.toNat := convIbm64Ieee64_toNat p
  have hfraction : (extract .w64 p.toNat).fraction ≠ 0 := extract_fraction_ne_zero_of_front hz
  obtain ⟨helo, hehi⟩ : 710 ≤ f.e ∧ f.e ≤ 1273 := front_e_bounds .w64 hfraction
  have hexponent : 711 ≤ ieeeExponent .w64 r ∧ ieeeExponent .w64 r ≤ 1275 := by
    obtain ⟨-, -, hMhi, -, hcarryFields, hfields⟩ := ibm64Ieee64RoundingCarry.1 p hz
    rcases hMhi.lt_or_eq with hlt | hcarry
    · have hfield : (ieeeExponent .w64 r : Int) = f.e + 1 := (hfields hlt).1
      omega
    · have hfield : (ieeeExponent .w64 r : Int) = f.e + 2 := (hcarryFields hcarry).1
      omega
  obtain ⟨hfieldlo, hfieldhi⟩ := hexponent
  refine ⟨helo, hehi, hfieldlo, hfieldhi, ?_,
    ibmMagnitude_bounds_of_front_e hfraction helo (Int.lt_add_one_of_le hehi)⟩
  rw [hr]
  exact ieeeClass_result64_normal hfraction

end Sys2Proof.Machine

/-! ## Reset and hazards (spec/70_reset_and_hazards.md)

The output at power-up, during an input change and when it is fed back; and a registered implementation as one queue:
the values its registers will show, oldest first, to which every cycle appends one and from which it takes one. -/

namespace Sys2Proof.Machine

/-! ### The ports (R90, R94) -/

/-- An output without a value meets the port invariant, which speaks of values only. -/
theorem portInvariant_of_result_none {s : State} (h : s.result = none) : PortInvariant s := by
  have hnone : ∀ v, s.result ≠ some v := fun v hv => Option.some_ne_none v (hv.symm.trans h)
  exact ⟨fun v hv => absurd hv (hnone v), fun v hv => absurd hv (hnone v)⟩

/-- `Convert` of the inputs at power-up takes the zero path and gives the pattern 0 (R57). -/
theorem convert_reset : convert State.reset.op State.reset.src = 0#64 :=
  ((zeroFractionGivesSignedZero 0#64).1 rfl).1

/-- Power-up is as if the block had already driven `Convert` of its inputs (R90). -/
theorem reset_eq_drive_convert : State.reset = State.reset.drive (convert State.reset.op State.reset.src) := by
  rw [convert_reset]
  rfl

/-! ### Register rows are queues (R93) -/

/-- A row of registers is a queue: what comes out, then what stays from the oldest on, is the row from its oldest on and
then what went in. -/
theorem shiftIn_eq_queue {α : Type} (x : α) (ys : List α) :
    (shiftIn x ys).1 :: (shiftIn x ys).2.reverse = ys.reverse ++ [x] := by
  induction ys generalizing x with
  | nil => rfl
  | cons y ys ih => rw [shiftIn_cons, List.reverse_cons, ← List.cons_append, ih y, ← List.reverse_cons]

/-- What the registers hold for the output to show, the oldest first: the results, then `Convert` of the requests. -/
def Registered.inFlight (m : Registered) : List (Option PortWord) :=
  m.after.reverse ++ m.before.reverse.map (Option.map convertRequest)

/-- At power-up every register is empty (R90). -/
theorem inFlight_powerUp (c : PipeConfig) : (Registered.powerUp c).inFlight = List.replicate c.latency none := by
  simp only [Registered.inFlight, Registered.powerUp, List.reverse_replicate, List.map_replicate, Option.map_none,
    List.replicate_append_replicate, PipeConfig.latency, Nat.add_comm]

/-- A cycle shows the oldest value in flight and appends `Convert` of the request presented in it: it passes through
both rows, each a queue. -/
theorem tick_eq_queue (m : Registered) (x : Option Request) :
    (m.tick x).1 :: (m.tick x).2.inFlight = m.inFlight ++ [x.map convertRequest] := by
  let front := shiftIn x m.before
  let back := shiftIn (front.1.map convertRequest) m.after
  calc back.1 :: (back.2.reverse ++ front.2.reverse.map (Option.map convertRequest))
      = m.after.reverse ++ [front.1.map convertRequest] ++ front.2.reverse.map (Option.map convertRequest) := by
        rw [← List.cons_append, shiftIn_eq_queue]
    _ = m.after.reverse ++ (front.1 :: front.2.reverse).map (Option.map convertRequest) := by
        rw [List.append_assoc, List.singleton_append, List.map_cons]
    _ = m.inFlight ++ [x.map convertRequest] := by
        rw [shiftIn_eq_queue, List.map_append, ← List.append_assoc]
        rfl

/-- From any contents of the registers, the output shows what is in flight and then `Convert` of each cycle's request,
for as many cycles as there are. -/
theorem outputs_eq_take (m : Registered) (inputs : List (Option Request)) :
    m.outputs inputs = (m.inFlight ++ inputs.map (Option.map convertRequest)).take inputs.length := by
  induction inputs generalizing m with
  | nil => rfl
  | cons x xs ih =>
    rw [Registered.outputs, ih, List.length_cons, ← List.take_succ_cons, ← List.cons_append, tick_eq_queue,
      List.append_assoc, List.singleton_append, List.map_cons]

/-! ### The obligations -/

/-- Settles O53: from power-up, what is in flight is one empty place per register. -/
theorem registeredImplementationDeliversInOrder : Obligations.RegisteredImplementationDeliversInOrder := by
  intro c inputs
  rw [outputs_eq_take, inFlight_powerUp]

/-- Settles O12: the sampled result is the next operand, and a step from a presented request drives `Convert` of it. -/
theorem resultFedBackNeedsNoWait : Obligations.ResultFedBackNeedsNoWait := by
  intro s t op hstep
  obtain rfl := step_eq_next_iff.mp hstep
  rw [feedBack_of_some (drive_result s _), step_present]
  rfl

/-- Settles O13: the request stands on the input ports, and the output has no value that could break the invariant. -/
theorem presentedInputsLeaveNoSample : Obligations.PresentedInputsLeaveNoSample := fun s r =>
  ⟨present_op s r, present_src s r, present_result s r, portInvariant_of_result_none (present_result s r)⟩

/-- Settles O14: at power-up the output is as a step would have driven it. -/
theorem resetOutputIsConversion : Obligations.ResetOutputIsConversion := by
  refine ⟨congrArg State.result reset_eq_drive_convert, ?_⟩
  rw [reset_eq_drive_convert]
  exact portInvariant_drive_convert State.reset

end Sys2Proof.Machine
